-- ==== Sys2Proof/Word.lean ====
section
/-! DEFINITION. The words of the CHIP-8 core: widths of spec/00_scope.md R8, R10 and spec/10_state.md R37. Every value is
unsigned (R10). -/

namespace Sys2Proof

/-- A general register, a timer or a byte of memory: 8 bits (R10). -/
abbrev Byte := BitVec 8

/-- PC, I, a stack entry or an instruction word: 16 bits (R10). -/
abbrev Word := BitVec 16

/-- The field nnn: a 12-bit absolute address (R66, R67). -/
abbrev Addr := BitVec 12

/-- The index of a general register: 0 to 15, so every register field names a register (R67). -/
abbrev Reg := Fin 16

/-- The 16 key booleans, bit k for key k (R32). -/
abbrev Keys := BitVec 16

/-- The 2048 one-bit cells of the display, bit r * 64 + c for column c and row r (R31). -/
abbrev Cells := BitVec 2048

/-- The 80 font bytes of the parameter `FONT` (R8, R49). -/
abbrev Font := Vector Byte 80

/-- VF, general register 15 and the flag (R21). -/
abbrev VF : Reg := 15

end Sys2Proof
end

