-- ==== Sys2Proof/Syntax.lean ====
section
/-! DEFINITION. The instructions: one constructor per row of spec/opcode_table.json, in the order of the opcode map
(spec/30_encoding.md R68, R69), with the fields of the row as its arguments. -/

namespace Sys2Proof

/-- The 34 instructions and the fallback row of the opcode table (R69, R70, R71). -/
inductive Instr where
  /-- `00E0` CLS (R123). -/
  | cls
  /-- `00EE` RET (R93). -/
  | ret
  /-- `1nnn` JP nnn (R94). -/
  | jp (nnn : Addr)
  /-- `2nnn` CALL nnn (R95). -/
  | call (nnn : Addr)
  /-- `3xnn` SE Vx, nn (R96). -/
  | seImm (x : Reg) (nn : Byte)
  /-- `4xnn` SNE Vx, nn (R97). -/
  | sneImm (x : Reg) (nn : Byte)
  /-- `5xy0` SE Vx, Vy (R98). -/
  | seReg (x y : Reg)
  /-- `6xnn` LD Vx, nn (R101). -/
  | ldImm (x : Reg) (nn : Byte)
  /-- `7xnn` ADD Vx, nn (R102). -/
  | addImm (x : Reg) (nn : Byte)
  /-- `8xy0` LD Vx, Vy (R104). -/
  | ldReg (x y : Reg)
  /-- `8xy1` OR Vx, Vy (R105). -/
  | orReg (x y : Reg)
  /-- `8xy2` AND Vx, Vy (R106). -/
  | andReg (x y : Reg)
  /-- `8xy3` XOR Vx, Vy (R107). -/
  | xorReg (x y : Reg)
  /-- `8xy4` ADD Vx, Vy (R108). -/
  | addReg (x y : Reg)
  /-- `8xy5` SUB Vx, Vy (R109). -/
  | sub (x y : Reg)
  /-- `8xy6` SHR Vx (R110); y is encoded and not read. -/
  | shr (x y : Reg)
  /-- `8xy7` SUBN Vx, Vy (R111). -/
  | subn (x y : Reg)
  /-- `8xyE` SHL Vx (R112); y is encoded and not read. -/
  | shl (x y : Reg)
  /-- `9xy0` SNE Vx, Vy (R99). -/
  | sneReg (x y : Reg)
  /-- `Annn` LD I, nnn (R114). -/
  | ldI (nnn : Addr)
  /-- `Bnnn` JP V0, nnn (R100). -/
  | jpV0 (nnn : Addr)
  /-- `Cxnn` RND Vx, nn (R113). -/
  | rnd (x : Reg) (nn : Byte)
  /-- `Dxyn` DRW Vx, Vy, n (R124); n is the number of rows, 0 to 15. -/
  | drw (x y : Reg) (n : Fin 16)
  /-- `Ex9E` SKP Vx (R127). -/
  | skp (x : Reg)
  /-- `ExA1` SKNP Vx (R129). -/
  | sknp (x : Reg)
  /-- `Fx07` LD Vx, DT (R131). -/
  | ldVxDT (x : Reg)
  /-- `Fx0A` LD Vx, K (R130). -/
  | ldVxK (x : Reg)
  /-- `Fx15` LD DT, Vx (R132). -/
  | ldDTVx (x : Reg)
  /-- `Fx18` LD ST, Vx (R133). -/
  | ldSTVx (x : Reg)
  /-- `Fx1E` ADD I, Vx (R115). -/
  | addI (x : Reg)
  /-- `Fx29` LD F, Vx (R116). -/
  | ldF (x : Reg)
  /-- `Fx33` LD B, Vx (R117). -/
  | ldB (x : Reg)
  /-- `Fx55` LD [I], Vx (R118). -/
  | ldStore (x : Reg)
  /-- `Fx65` LD Vx, [I] (R119). -/
  | ldLoad (x : Reg)
  /-- Any other word (R71): a no-op (R90). -/
  | unrecognised (w : Word)
  deriving DecidableEq, Repr

end Sys2Proof
end

