-- ==== Sys2Proof/Decode.lean ====
section
/-! DEFINITION. The decoder, a total function of the word (spec/30_encoding.md R66, R69, R71), and after it the encoder,
written from the same table. -/

namespace Sys2Proof

/-! ### The fields of a word (R66) -/

/-- op, bits 15 to 12. -/
def opField (w : Word) : BitVec 4 := w.extractLsb' 12 4

/-- x, bits 11 to 8. -/
def xField (w : Word) : Reg := (w.extractLsb' 8 4).toFin

/-- y, bits 7 to 4. -/
def yField (w : Word) : Reg := (w.extractLsb' 4 4).toFin

/-- n, bits 3 to 0. -/
def nField (w : Word) : Fin 16 := (w.extractLsb' 0 4).toFin

/-- nn, bits 7 to 0. -/
def nnField (w : Word) : Byte := w.extractLsb' 0 8

/-- nnn, bits 11 to 0. -/
def nnnField (w : Word) : Addr := w.extractLsb' 0 12

/-! ### The decoder: the high nibble, then the low nibble or the low byte where the row fixes it (R69) -/

/-- The rows of op 0x0: the whole word is fixed. -/
def decode0 (w : Word) : Instr :=
  if w = 0x00E0 then .cls else if w = 0x00EE then .ret else .unrecognised w

/-- The rows of op 0x8, selected by n. -/
def decode8 (w : Word) : Instr :=
  if nField w = 0x0 then .ldReg (xField w) (yField w)
  else if nField w = 0x1 then .orReg (xField w) (yField w)
  else if nField w = 0x2 then .andReg (xField w) (yField w)
  else if nField w = 0x3 then .xorReg (xField w) (yField w)
  else if nField w = 0x4 then .addReg (xField w) (yField w)
  else if nField w = 0x5 then .sub (xField w) (yField w)
  else if nField w = 0x6 then .shr (xField w) (yField w)
  else if nField w = 0x7 then .subn (xField w) (yField w)
  else if nField w = 0xE then .shl (xField w) (yField w)
  else .unrecognised w

/-- The rows of op 0xE, selected by nn. -/
def decodeE (w : Word) : Instr :=
  if nnField w = 0x9E then .skp (xField w) else if nnField w = 0xA1 then .sknp (xField w) else .unrecognised w

/-- The rows of op 0xF, selected by nn. -/
def decodeF (w : Word) : Instr :=
  if nnField w = 0x07 then .ldVxDT (xField w)
  else if nnField w = 0x0A then .ldVxK (xField w)
  else if nnField w = 0x15 then .ldDTVx (xField w)
  else if nnField w = 0x18 then .ldSTVx (xField w)
  else if nnField w = 0x1E then .addI (xField w)
  else if nnField w = 0x29 then .ldF (xField w)
  else if nnField w = 0x33 then .ldB (xField w)
  else if nnField w = 0x55 then .ldStore (xField w)
  else if nnField w = 0x65 then .ldLoad (xField w)
  else .unrecognised w

/-- The decoder: every 16-bit word is an instruction or `unrecognised` (R66, R69, R71, R84). -/
def decode (w : Word) : Instr :=
  if opField w = 0x0 then decode0 w
  else if opField w = 0x1 then .jp (nnnField w)
  else if opField w = 0x2 then .call (nnnField w)
  else if opField w = 0x3 then .seImm (xField w) (nnField w)
  else if opField w = 0x4 then .sneImm (xField w) (nnField w)
  else if opField w = 0x5 then (if nField w = 0 then .seReg (xField w) (yField w) else .unrecognised w)
  else if opField w = 0x6 then .ldImm (xField w) (nnField w)
  else if opField w = 0x7 then .addImm (xField w) (nnField w)
  else if opField w = 0x8 then decode8 w
  else if opField w = 0x9 then (if nField w = 0 then .sneReg (xField w) (yField w) else .unrecognised w)
  else if opField w = 0xA then .ldI (nnnField w)
  else if opField w = 0xB then .jpV0 (nnnField w)
  else if opField w = 0xC then .rnd (xField w) (nnField w)
  else if opField w = 0xD then .drw (xField w) (yField w) (nField w)
  else if opField w = 0xE then decodeE w
  else decodeF w

/-! ### Byte order (R54) -/

/-- The word of two bytes, the one at the lower address first: the high byte (R54). -/
def wordOfBytes (hi lo : Byte) : Word := BitVec.ofNat 16 (hi.toNat * 256 + lo.toNat)

/-- The byte at the lower address of a word: its high byte (R54). -/
def highByte (w : Word) : Byte := w.extractLsb' 8 8

/-- The byte at the higher address of a word: its low byte (R54). -/
def lowByte (w : Word) : Byte := w.extractLsb' 0 8

/-- The decoder on bytes: two bytes, high byte first, give an instruction and the bytes left (R65); fewer give none. -/
def decodeBytes : List Byte → Option (Instr × List Byte)
  | hi :: lo :: rest => some (decode (wordOfBytes hi lo), rest)
  | [_] => none
  | [] => none

/-- The host's probe: the instruction the decoder reads from the `nbits`-bit word w, laid out in memory order (the high byte of
the one 16-bit word first, R54, R65). -/
def decodeTableWord (nbits w : Nat) : Option Instr :=
  let word := BitVec.ofNat 16 (w % 2 ^ nbits)
  (decodeBytes [highByte word, lowByte word]).map Prod.fst

/-! ### The encoder, by the layouts of R68: each digit in its place -/

/-- Class NNN: `o nnn`. -/
def encNNN (o : BitVec 4) (nnn : Addr) : Word := BitVec.ofNat 16 (o.toNat * 0x1000 + nnn.toNat)

/-- Class XNN, and class X with nn the function byte: `o x nn`. -/
def encXNN (o : BitVec 4) (x : Reg) (nn : Byte) : Word := BitVec.ofNat 16 (o.toNat * 0x1000 + x.val * 0x100 + nn.toNat)

/-- Classes XY and XYN: `o x y n`, n the function digit in class XY. -/
def encXYN (o : BitVec 4) (x y n : Fin 16) : Word :=
  BitVec.ofNat 16 (o.toNat * 0x1000 + x.val * 0x100 + y.val * 0x10 + n.val)

/-- The encoder: the word of each instruction (R68, R69; spec/opcode_table.json "encoding"). -/
def encode : Instr → Word
  | .cls => 0x00E0
  | .ret => 0x00EE
  | .jp nnn => encNNN 0x1 nnn
  | .call nnn => encNNN 0x2 nnn
  | .seImm x nn => encXNN 0x3 x nn
  | .sneImm x nn => encXNN 0x4 x nn
  | .seReg x y => encXYN 0x5 x y 0x0
  | .ldImm x nn => encXNN 0x6 x nn
  | .addImm x nn => encXNN 0x7 x nn
  | .ldReg x y => encXYN 0x8 x y 0x0
  | .orReg x y => encXYN 0x8 x y 0x1
  | .andReg x y => encXYN 0x8 x y 0x2
  | .xorReg x y => encXYN 0x8 x y 0x3
  | .addReg x y => encXYN 0x8 x y 0x4
  | .sub x y => encXYN 0x8 x y 0x5
  | .shr x y => encXYN 0x8 x y 0x6
  | .subn x y => encXYN 0x8 x y 0x7
  | .shl x y => encXYN 0x8 x y 0xE
  | .sneReg x y => encXYN 0x9 x y 0x0
  | .ldI nnn => encNNN 0xA nnn
  | .jpV0 nnn => encNNN 0xB nnn
  | .rnd x nn => encXNN 0xC x nn
  | .drw x y n => encXYN 0xD x y n
  | .skp x => encXNN 0xE x 0x9E
  | .sknp x => encXNN 0xE x 0xA1
  | .ldVxDT x => encXNN 0xF x 0x07
  | .ldVxK x => encXNN 0xF x 0x0A
  | .ldDTVx x => encXNN 0xF x 0x15
  | .ldSTVx x => encXNN 0xF x 0x18
  | .addI x => encXNN 0xF x 0x1E
  | .ldF x => encXNN 0xF x 0x29
  | .ldB x => encXNN 0xF x 0x33
  | .ldStore x => encXNN 0xF x 0x55
  | .ldLoad x => encXNN 0xF x 0x65
  | .unrecognised w => w

end Sys2Proof
end

