-- ==== Sys2Proof/Config.lean ====
section
/-! DEFINITION. What is fixed for the machine and not part of its state: the parameters of spec/00_scope.md R8 and the free
values the spec leaves open (spec/92_eei_decisions.md D3, D17, D18, D27), the host's requests (R6) among them. -/

namespace Sys2Proof.Machine

/-- What the host asks of the core (R6); the read-only views are functions of the state and change nothing. -/
inductive Request where
  /-- construct or reset (R154). -/
  | reset
  /-- `load(rom)` (R52). -/
  | load (rom : List Byte)
  /-- `step(keys)` (R80). -/
  | step (keys : Keys)
  /-- `tick()` (R134). -/
  | tick
  deriving DecidableEq, Repr, Inhabited

end Sys2Proof.Machine

namespace Sys2Proof.Config

/-- `MEM_SIZE` (R8): addresses 0x000 to 0xFFF. -/
@[simp] abbrev memSize : Nat := 4096

/-- `FONT_BASE` (R8). -/
@[simp] abbrev fontBase : Nat := 0x050

/-- `GLYPH_BYTES` (R8). -/
@[simp] abbrev glyphBytes : Nat := 5

/-- `GLYPHS` times `GLYPH_BYTES` (R8): the size of the font table. -/
@[simp] abbrev fontSize : Nat := 80

/-- `PROG_BASE` (R8). -/
@[simp] abbrev progBase : Nat := 0x200

/-- `ROM_MAX` (R8): 4096 - 0x200. -/
@[simp] abbrev romMax : Nat := 3584

/-- `STACK_DEPTH` (R8). -/
@[simp] abbrev stackDepth : Nat := 16

/-- `DISP_W` (R8). -/
@[simp] abbrev dispW : Nat := 64

/-- `DISP_H` (R8). -/
@[simp] abbrev dispH : Nat := 32

/-- `DISP_W * DISP_H` (R8). -/
@[simp] abbrev dispCells : Nat := 2048

/-- The spec's default value of the parameter `FONT` (R49, D3): the conventional CHIP-8 font, glyphs 0 to F of five bytes.
PRESUMED (log 4): the source gives no font byte, so only `State.reset` carries this value, and every other definition takes
the font as it stands in the state. -/
def defaultFont : Font :=
  ⟨#[0xF0, 0x90, 0x90, 0x90, 0xF0,  0x20, 0x60, 0x20, 0x20, 0x70,  0xF0, 0x10, 0xF0, 0x80, 0xF0,  0xF0, 0x10, 0xF0, 0x10, 0xF0,
     0x90, 0x90, 0xF0, 0x10, 0x10,  0xF0, 0x80, 0xF0, 0x10, 0xF0,  0xF0, 0x80, 0xF0, 0x90, 0xF0,  0xF0, 0x10, 0x20, 0x40, 0x40,
     0xF0, 0x90, 0xF0, 0x90, 0xF0,  0xF0, 0x90, 0xF0, 0x10, 0xF0,  0xF0, 0x90, 0xF0, 0x90, 0x90,  0xE0, 0x90, 0xE0, 0x90, 0xE0,
     0xF0, 0x80, 0x80, 0x80, 0xF0,  0xE0, 0x90, 0x90, 0x90, 0xE0,  0xF0, 0x80, 0xF0, 0x80, 0xF0,  0xF0, 0x80, 0xF0, 0x80, 0x80],
    rfl⟩

/-- `RNG` (R8, R113, D17): the byte the n-th random draw returns. A FREE VALUE (log 3): it has no body, so nothing can be
proved of any draw, of its distribution or of two draws together. -/
opaque randomByte : Nat → Byte

/-- The host's schedule (R7, R136, D18): the n-th request of a host that follows no stated schedule. A FREE VALUE (log 18): it has no
body, so what is proved under it holds of every endless sequence of requests, whatever snapshots the steps carry. -/
opaque hostRequest : Nat → Sys2Proof.Machine.Request

/-- `TICK_RATE` (D27): the host's ticks per second, a parameter no rule uses (R136, R164; log 12). -/
opaque tickRate : Nat

end Sys2Proof.Config
end

