-- ==== Sys2Proof/Machine/State.lean ====
section
/-! DEFINITION. The state of the core (spec/10_state.md, spec/20_memory.md R45), what stands outside it as plain data, and the
state after reset (spec/70_reset_and_hazards.md R154). -/

namespace Sys2Proof.Machine

/-- MODE (R33). -/
inductive Mode where
  | running
  | awaitingKey
  deriving DecidableEq, Repr

/-- The access kind of a fault record (R35). -/
inductive Access where
  | none
  | fetch
  | read
  | write
  deriving DecidableEq, Repr

/-- The fault kinds of R138. -/
inductive FaultKind where
  | none
  | stackOverflow
  | stackUnderflow
  | keyIndexOutOfRange
  | memoryOutOfBounds
  | romTooLarge
  deriving DecidableEq, Repr

/-- FAULT, the fault record (R35). -/
structure FaultRecord where
  kind   : FaultKind
  pc     : Word
  opcode : Word
  access : Access
  info   : Nat
  deriving DecidableEq, Repr

/-- The record that says no fault: every field as R154 resets it. -/
def FaultRecord.clear : FaultRecord := ⟨.none, 0, 0, .none, 0⟩

/-- What a primitive or an instruction rule raises (R88, R138): the spec's `raise F(access, info)`. The step takes it
(`State.takeFault`), so that the machine goes to a NEXT state that holds the record, and `step` itself never ends in one
(log 7). -/
inductive Fault where
  /-- Raised by 2nnn with SP = 16 (R27, R95). Safe: it is the spec's own fault. -/
  | stackOverflow
  /-- Raised by 00EE with SP = 0 (R27, R93). Safe: it is the spec's own fault. -/
  | stackUnderflow
  /-- Raised by Ex9E and ExA1 with Vx >= 16, whose value it carries (R128). Safe: it is the spec's own fault. -/
  | keyIndexOutOfRange (v : Byte)
  /-- Raised by a fetch and by Dxyn, Fx65 (read), Fx33, Fx55 (write) at an address above 0xFFF, which it carries (R56, R57).
  Safe: it is the spec's own fault. -/
  | memoryOutOfBounds (access : Access) (addr : Nat)
  /-- Raised by load on a ROM of more than 3584 bytes, whose length it carries (R52). Safe: it is the spec's own fault. -/
  | romTooLarge (len : Nat)
  deriving DecidableEq, Repr

/-- Where the machine has no move because the host breaks its duty (R149), and the arm of an instruction without a meaning. -/
inductive Refusal where
  /-- An instruction that has no meaning yet: raised by an arm of `exec`, of which there is none. Safe: the machine stops. -/
  | notModelled (mnemonic : String)
  /-- A step requested while LOADED = 0: raised by `coreStep` (R80, D19). Safe: the spec refuses it too. -/
  | stepBeforeLoad
  /-- A load requested while LOADED = 1 or a fault is recorded: raised by `State.load` (R52, D19). Safe: the spec refuses it too. -/
  | loadOutOfTurn
  deriving DecidableEq, Repr

/-- What the host requests once no request is pending: the part of its schedule without an end (R7, D18; log 18). -/
inductive Schedule where
  /-- The round, over and over; the empty round is a step with the snapshot given last, over and over. The reference driver's one
  step and one tick (R7, R165) is the round `[.step keys, .tick]`. -/
  | repeating (round : List Request)
  /-- Any schedule at all: the n-th request is the free value `Config.hostRequest n`. -/
  | free (n : Nat)
  deriving DecidableEq, Repr

/-- What the last operation returned to the host (R6). -/
inductive Reply where
  /-- construct, reset and tick return nothing. -/
  | nothing
  /-- `Ok` of a load (R52). -/
  | loadOk
  /-- `Ok{display_dirty, tone_active}` of a step (R80, R86). -/
  | stepOk (displayDirty toneActive : Bool)
  /-- `Fault{kind, pc, opcode, access, info}` of a step or a load (R52, R80, R88). -/
  | fault (record : FaultRecord)
  deriving DecidableEq, Repr

/-- MEM (R45) as the bytes that differ from the reset contents: `cells` lists them by rising address; `font` is the parameter
`FONT` (R49), a constant of the machine, carried here so that every statement holds for every font (log 4). -/
structure Memory where
  font  : Font
  cells : List Host.Cell
  deriving DecidableEq, Repr

/-- The state of the machine. -/
structure State where
  /-- V[0] to V[15] (R20). -/
  v : Vector Byte 16
  /-- PC (R24). -/
  pc : Word
  /-- I (R26). -/
  i : Word
  /-- SP, 0 to 16 (R27, R28; log 9). -/
  sp : Fin 17
  /-- STACK[0] to STACK[15] (R27). -/
  stack : Vector Word 16
  /-- DT (R29). -/
  dt : Byte
  /-- ST (R30). -/
  st : Byte
  /-- DISP[0] to DISP[2047] (R31; log 10). -/
  disp : Cells
  /-- K[0] to K[15] (R32; log 10). -/
  k : Keys
  /-- MODE (R33). -/
  mode : Mode
  /-- LAST_OP (R34). -/
  lastOp : Word
  /-- FAULT (R35). -/
  fault : FaultRecord
  /-- LOADED (R36). -/
  loaded : Bool
  /-- MEM (R45). -/
  mem : Memory
  /-- The model's: the snapshot the host hands to the step operation (R6, R80; log 2). -/
  keysIn : Keys
  /-- The model's: the requests the host has made and the core has not served, oldest first (R6, R7, D18; log 1). -/
  inbox : List Request
  /-- The model's: what the host requests once `inbox` is empty, without an end (R7, D18; log 18). -/
  schedule : Schedule
  /-- The model's: what the last operation returned (R6, R86; log 6). -/
  reply : Reply
  /-- The model's: how many random bytes have been drawn (R113, D17; log 3). -/
  draws : Nat
  deriving DecidableEq, Repr

/-- The state right after construction or reset, nothing loaded (R37, R154), with the default font (R49, log 4) and the model's
own fields at the values log 1, 2, 3, 6 and 18 name. -/
def State.reset : State :=
  { v := Vector.replicate 16 0, pc := 0x200, i := 0, sp := 0, stack := Vector.replicate 16 0, dt := 0, st := 0, disp := 0,
    k := 0, mode := .running, lastOp := 0, fault := FaultRecord.clear, loaded := false, mem := ⟨Config.defaultFont, []⟩,
    keysIn := 0, inbox := [], schedule := .repeating [], reply := .nothing, draws := 0 }

end Sys2Proof.Machine
end

