-- ==== Sys2Proof/Machine/Ops.lean ====
section
/-! DEFINITION. The named operations over memory, registers and the call stack, taking a fault, and the step's commit
(spec/10_state.md R27, spec/20_memory.md R56, R57, spec/40_cycle.md R81 to R88). -/

namespace Sys2Proof.Machine

/-! ### Memory (R45, R50, R54, R56, R57) -/

/-- What an unlisted address reads as: the contents after construction, the font at 0x050 to 0x09F and 0x00 everywhere else
(R47, R50, R153, R154). -/
def resetByte (font : Font) (a : Nat) : Byte :=
  if h : Config.fontBase ≤ a ∧ a < Config.fontBase + Config.fontSize then font[a - Config.fontBase]'(Nat.sub_lt_left_of_lt_add h.1 h.2) else 0

/-- The byte a list of cells gives an address, if it lists the address. -/
def lookupCell (a : Nat) : List Host.Cell → Option Byte
  | [] => none
  | c :: cs => if c.1 = a then some c.2 else lookupCell a cs

/-- The cells without the entry of an address. -/
def eraseCell (a : Nat) : List Host.Cell → List Host.Cell
  | [] => []
  | c :: cs => if c.1 = a then cs else c :: eraseCell a cs

/-- The cells with an entry for an address, put in its place among rising addresses. -/
def insertCell (a : Nat) (b : Byte) : List Host.Cell → List Host.Cell
  | [] => [(a, b)]
  | c :: cs => if a < c.1 then (a, b) :: c :: cs else if c.1 = a then (a, b) :: cs else c :: insertCell a b cs

/-- The byte at an address: the listed one, else what the address holds after reset. -/
def Memory.read (m : Memory) (a : Nat) : Byte :=
  (lookupCell a m.cells).getD (resetByte m.font a)

/-- The memory with one byte stored; storing what the address holds after reset removes the entry, so that equal memories are
equal data. -/
def Memory.write (m : Memory) (a : Nat) (b : Byte) : Memory :=
  { m with cells := if b = resetByte m.font a then eraseCell a m.cells else insertCell a b m.cells }

/-- The canonical form: addresses strictly rising and inside the address space, no entry equal to the reset contents. -/
abbrev Memory.wf (m : Memory) : Prop :=
  m.cells.Pairwise (fun c d => c.1 < d.1) ∧ ∀ c ∈ m.cells, c.1 < Config.memSize ∧ c.2 ≠ resetByte m.font c.1

/-- Consecutive bytes stored from an address on, with no check of the address: the loader's copy (R52) and the construction's
font (R153), whose addresses all exist. -/
def Memory.writeAll (m : Memory) (a : Nat) : List Byte → Memory
  | [] => m
  | b :: bs => (m.write a b).writeAll (a + 1) bs

/-- `MemRead(a, 1)` (R56): a is a natural number, never wrapped (R58). -/
def State.memRead (s : State) (a : Nat) : Except Fault Byte :=
  if a > 0xFFF then .error (.memoryOutOfBounds .read a) else .ok (s.mem.read a)

/-- `MemWrite(a, 1, b)` (R56). -/
def State.memWrite (s : State) (a : Nat) (b : Byte) : Except Fault State :=
  if a > 0xFFF then .error (.memoryOutOfBounds .write a) else .ok { s with mem := s.mem.write a b }

/-- n bytes read at a, a + 1, ..., in that order; the first address above 0xFFF raises the fault (R55, R140). -/
def State.memReads (s : State) (a : Nat) : Nat → Except Fault (List Byte)
  | 0 => .ok []
  | n + 1 =>
    match s.memRead a with
    | .error f => .error f
    | .ok b =>
      match s.memReads (a + 1) n with
      | .error f => .error f
      | .ok bs => .ok (b :: bs)

/-- The bytes stored at a, a + 1, ..., in that order; the first address above 0xFFF raises the fault (R55, R140). -/
def State.memWrites (s : State) (a : Nat) : List Byte → Except Fault State
  | [] => .ok s
  | b :: bs =>
    match s.memWrite a b with
    | .error f => .error f
    | .ok t => t.memWrites (a + 1) bs

/-- `Fetch16(a)` (R57): two bytes, the high one at the lower address (R54), at any alignment (R59). -/
def State.fetch16 (s : State) (a : Nat) : Except Fault Word :=
  if a > 0xFFF then .error (.memoryOutOfBounds .fetch a)
  else if a + 1 > 0xFFF then .error (.memoryOutOfBounds .fetch (a + 1))
  else .ok (wordOfBytes (s.mem.read a) (s.mem.read (a + 1)))

/-! ### Registers (R20, R21, R24) -/

/-- V[x]. -/
def State.reg (s : State) (x : Reg) : Byte := s.v[x.val]

/-- `V[x] <- b`. -/
def State.setReg (s : State) (x : Reg) (b : Byte) : State := { s with v := s.v.set x.val b }

/-- The registers from index j on take the bytes in order; a byte past VF goes nowhere. -/
def setFrom (v : Vector Byte 16) (j : Nat) : List Byte → Vector Byte 16
  | [] => v
  | b :: bs => setFrom (if h : j < 16 then v.set j b else v) (j + 1) bs

/-- `V[k] <- bytes[k]` for k = 0, 1, ... (R119). -/
def State.setRegs (s : State) (bytes : List Byte) : State := { s with v := setFrom s.v 0 bytes }

/-- V[0] to V[x], in order (R118). -/
def State.regsTo (s : State) (x : Reg) : List Byte := s.v.toList.take (x.val + 1)

/-- `PC <- target`; any value is a legal PC (R24). -/
def State.jump (s : State) (target : Word) : State := { s with pc := target }

/-- `PC <- PC + 2` when the condition holds (R96 to R99, R127, R129). -/
def State.skipIf (s : State) (c : Bool) : State := { s with pc := if c then s.pc + 2 else s.pc }

/-! ### The call stack (R27, R28) -/

/-- `push(a)`: 16 entries, the seventeenth raises StackOverflow (R27). -/
def State.push (s : State) (a : Word) : Except Fault State :=
  if h : s.sp.val < Config.stackDepth then
    .ok { s with stack := s.stack.set s.sp.val a, sp := ⟨s.sp.val + 1, Nat.succ_lt_succ h⟩ }
  else .error .stackOverflow

/-- `pop()`: the newest entry and the state with SP one less; an empty stack raises StackUnderflow (R27). -/
def State.pop (s : State) : Except Fault (Word × State) :=
  if h : s.sp.val = 0 then .error .stackUnderflow
  else .ok (s.stack[s.sp.val - 1]'(by omega), { s with sp := ⟨s.sp.val - 1, by omega⟩ })

/-! ### Faults (R35, R88, R138, R141) -/

/-- The numeric code of a fault kind (R138, D24). -/
def FaultKind.code : FaultKind → Nat
  | .none => 0
  | .stackOverflow => 1
  | .stackUnderflow => 2
  | .keyIndexOutOfRange => 3
  | .memoryOutOfBounds => 4
  | .romTooLarge => 5

/-- The kind a raised fault has (R138). -/
def Fault.kind : Fault → FaultKind
  | .stackOverflow => .stackOverflow
  | .stackUnderflow => .stackUnderflow
  | .keyIndexOutOfRange _ => .keyIndexOutOfRange
  | .memoryOutOfBounds _ _ => .memoryOutOfBounds
  | .romTooLarge _ => .romTooLarge

/-- The access it records (R138). -/
def Fault.access : Fault → Access
  | .memoryOutOfBounds a _ => a
  | .stackOverflow | .stackUnderflow | .keyIndexOutOfRange _ | .romTooLarge _ => .none

/-- The info it records (R138). -/
def Fault.info : Fault → Nat
  | .stackOverflow | .stackUnderflow => 0
  | .keyIndexOutOfRange v => v.toNat
  | .memoryOutOfBounds _ addr => addr
  | .romTooLarge len => len

/-- A fault is recorded: FAULT.kind is not NONE (R35). -/
def State.faulted (s : State) : Bool := s.fault.kind != .none

/-- TAKING A FAULT, the one operation of it (R88, R141), applied to the state at the start of the step (or load), which is
thereby restored whole: FAULT gets the record, with pc_i the PC that state holds and the fetched word (0 where none was), and
the host gets the record back. There is no handler and no return from a fault: only construct/reset clears FAULT (R142, R143,
R154). -/
def State.takeFault (s : State) (f : Fault) (opcode : Word) : State :=
  let record : FaultRecord := ⟨f.kind, s.pc, opcode, f.access, f.info⟩
  { s with fault := record, reply := .fault record }

/-! ### The step around an instruction rule (R81) -/

/-- What precedes the instruction rule: the keys are latched (R82), PC is advanced and LAST_OP written (R83), MODE is RUNNING
(R87). -/
def State.fetched (s : State) (w : Word) : State :=
  { s with k := s.keysIn, pc := s.pc + 2, lastOp := w, mode := .running }

/-- The tone signal (R137): a level, true while ST = 1 (C9). -/
def State.tone (s : State) : Bool := s.st == 1

/-- What follows it: the outputs `Ok{display_dirty, tone_active}`, the tone sampled at the end of the step (R86). -/
def State.finished (s : State) (dirty : Bool) : State := { s with reply := .stepOk dirty s.tone }

/-- One instruction executed on the state at the start of its step, whose word is w: the rule runs on the state after the fetch
(R12), and the step is committed or, where the rule raises a fault, taken back whole (R81, R88). `dirty` says that the row is
00E0 or Dxyn (R86). -/
def execute (w : Word) (dirty : Bool) (rule : State → Except Fault State) (s : State) :
    Host.Outcome State Fault Refusal :=
  match rule (s.fetched w) with
  | .ok t => .next (t.finished dirty)
  | .error f => .next (s.takeFault f w)

end Sys2Proof.Machine
end

