-- ==== Sys2Proof/Machine/Flags.lean ====
section
/-! DEFINITION. The results and the flag of the arithmetic instructions (spec/10_state.md R22, spec/42_alu.md R103 to R112): the
exact natural-number result, narrowed to 8 bits, and VF as 0 or 1 from the operands as they were. -/

namespace Sys2Proof.Machine

/-- A flag as a byte: `cond ? 1 : 0` (R10, R22). -/
def flagByte (c : Bool) : Byte := if c then 1 else 0

/-- `(a + b) mod 256` (R102, R108). -/
def sumByte (a b : Byte) : Byte := BitVec.ofNat 8 (a.toNat + b.toNat)

/-- The carry: a + b > 255 (R108). -/
def carry (a b : Byte) : Bool := decide (a.toNat + b.toNat > 255)

/-- `(a + 256 - b) mod 256` (R109, R111). -/
def diffByte (a b : Byte) : Byte := BitVec.ofNat 8 (a.toNat + 256 - b.toNat)

/-- No borrow, strictly: a > b (R109, R111; D11). -/
def noBorrow (a b : Byte) : Bool := decide (a.toNat > b.toNat)

/-- `a >> 1` (R110). -/
def shiftRightByte (a : Byte) : Byte := BitVec.ofNat 8 (a.toNat / 2)

/-- The bit a right shift drops: a & 1 (R110). -/
def lowBit (a : Byte) : Bool := a.getLsbD 0

/-- `(a << 1) mod 256` (R112). -/
def shiftLeftByte (a : Byte) : Byte := BitVec.ofNat 8 (a.toNat * 2)

/-- The bit a left shift drops: (a >> 7) & 1 (R112). -/
def highBit (a : Byte) : Bool := a.getLsbD 7

/-- The primary result to V[x], then the flag to VF, last (R22, R103): with x = 0xF the flag is what VF holds. -/
def State.setRegFlag (s : State) (x : Reg) (result : Byte) (flag : Bool) : State :=
  (s.setReg x result).setReg VF (flagByte flag)

end Sys2Proof.Machine
end

