-- ==== Sys2Proof/Machine/Alu.lean ====
section
/-! DEFINITION. Register loads and arithmetic (spec/42_alu.md R101 to R113). Operands are read before anything is written, and VF
is written last (R103). None of these faults. -/

namespace Sys2Proof.Machine

/-- `6xnn` LD Vx, nn (R101). -/
def execLdImm (x : Reg) (nn : Byte) (s : State) : Host.Outcome State Fault Refusal :=
  execute (encode (.ldImm x nn)) false (fun p => .ok (p.setReg x nn)) s

/-- `7xnn` ADD Vx, nn (R102): VF is no flag here. -/
def execAddImm (x : Reg) (nn : Byte) (s : State) : Host.Outcome State Fault Refusal :=
  execute (encode (.addImm x nn)) false (fun p => .ok (p.setReg x (sumByte (p.reg x) nn))) s

/-- `8xy0` LD Vx, Vy (R104). -/
def execLdReg (x y : Reg) (s : State) : Host.Outcome State Fault Refusal :=
  execute (encode (.ldReg x y)) false (fun p => .ok (p.setReg x (p.reg y))) s

/-- `8xy1` OR Vx, Vy (R105): VF is not reset. -/
def execOrReg (x y : Reg) (s : State) : Host.Outcome State Fault Refusal :=
  execute (encode (.orReg x y)) false (fun p => .ok (p.setReg x (p.reg x ||| p.reg y))) s

/-- `8xy2` AND Vx, Vy (R106). -/
def execAndReg (x y : Reg) (s : State) : Host.Outcome State Fault Refusal :=
  execute (encode (.andReg x y)) false (fun p => .ok (p.setReg x (p.reg x &&& p.reg y))) s

/-- `8xy3` XOR Vx, Vy (R107). -/
def execXorReg (x y : Reg) (s : State) : Host.Outcome State Fault Refusal :=
  execute (encode (.xorReg x y)) false (fun p => .ok (p.setReg x (p.reg x ^^^ p.reg y))) s

/-- `8xy4` ADD Vx, Vy (R108). -/
def execAddReg (x y : Reg) (s : State) : Host.Outcome State Fault Refusal :=
  execute (encode (.addReg x y)) false (fun p =>
    .ok (p.setRegFlag x (sumByte (p.reg x) (p.reg y)) (carry (p.reg x) (p.reg y)))) s

/-- `8xy5` SUB Vx, Vy (R109). -/
def execSub (x y : Reg) (s : State) : Host.Outcome State Fault Refusal :=
  execute (encode (.sub x y)) false (fun p =>
    .ok (p.setRegFlag x (diffByte (p.reg x) (p.reg y)) (noBorrow (p.reg x) (p.reg y)))) s

/-- `8xy6` SHR Vx (R110): Vy is not read (D29); y is only part of the word. -/
def execShr (x y : Reg) (s : State) : Host.Outcome State Fault Refusal :=
  execute (encode (.shr x y)) false (fun p => .ok (p.setRegFlag x (shiftRightByte (p.reg x)) (lowBit (p.reg x)))) s

/-- `8xy7` SUBN Vx, Vy (R111). -/
def execSubn (x y : Reg) (s : State) : Host.Outcome State Fault Refusal :=
  execute (encode (.subn x y)) false (fun p =>
    .ok (p.setRegFlag x (diffByte (p.reg y) (p.reg x)) (noBorrow (p.reg y) (p.reg x)))) s

/-- `8xyE` SHL Vx (R112): Vy is not read (D29); y is only part of the word. -/
def execShl (x y : Reg) (s : State) : Host.Outcome State Fault Refusal :=
  execute (encode (.shl x y)) false (fun p => .ok (p.setRegFlag x (shiftLeftByte (p.reg x)) (highBit (p.reg x)))) s

/-- `RNG()` (R113): the next random byte, a free value (log 3), and the state that has drawn it. -/
def State.drawByte (s : State) : Byte × State := (Config.randomByte s.draws, { s with draws := s.draws + 1 })

/-- `Cxnn` RND Vx, nn (R113): the draw is made even when nn = 0. -/
def execRnd (x : Reg) (nn : Byte) (s : State) : Host.Outcome State Fault Refusal :=
  execute (encode (.rnd x nn)) false (fun p => .ok (p.drawByte.2.setReg x (p.drawByte.1 &&& nn))) s

end Sys2Proof.Machine
end

