-- ==== Sys2Proof/Machine/Operands.lean ====
section
/-! DEFINITION. The operand forms of the instructions (spec/30_encoding.md R67): a register, the immediate nn as it is, the
address nnn zero-extended, the effective address I + k, the glyph address, and the key index. -/

namespace Sys2Proof.Machine

/-- nnn as a PC or an I value: zero-extended (R67, R94, R114). -/
def addrWord (nnn : Addr) : Word := nnn.setWidth 16

/-- The target of Bnnn: nnn + V[0], not reduced modulo 4096 (R100). -/
def jumpV0Target (nnn : Addr) (v0 : Byte) : Word := BitVec.ofNat 16 (nnn.toNat + v0.toNat)

/-- The effective address I + k: a natural number, never wrapped (R56, R58). -/
def State.effAddr (s : State) (k : Nat) : Nat := s.i.toNat + k

/-- The address of the glyph for a byte: 0x050 + 5 * Vx, the byte not reduced (R116). -/
def glyphAddr (b : Byte) : Word := BitVec.ofNat 16 (Config.fontBase + Config.glyphBytes * b.toNat)

/-- `I + Vx`, modulo 65536 (R115). -/
def indexSum (i : Word) (b : Byte) : Word := BitVec.ofNat 16 (i.toNat + b.toNat)

/-- `keyIndex(v)` (R128). -/
def keyIndex (v : Byte) : Except Fault Nat :=
  if v.toNat ≥ 16 then .error (.keyIndexOutOfRange v) else .ok v.toNat

/-- K[k] of the snapshot latched at this step (R32, R82). -/
def State.keyDown (s : State) (k : Nat) : Bool := s.k.getLsbD k

/-- The least k with K[k] = 1 among the first n keys from key j on, if there is one (R130). -/
def firstKeyFrom (keys : Keys) (j : Nat) : Nat → Option Nat
  | 0 => none
  | n + 1 => if keys.getLsbD j then some j else firstKeyFrom keys (j + 1) n

/-- The least pressed key of a snapshot (R130). -/
def firstKey (keys : Keys) : Option Nat := firstKeyFrom keys 0 16

/-- The three decimal digits of a byte, hundreds first (R117). -/
def decimalDigits (b : Byte) : List Byte :=
  [BitVec.ofNat 8 (b.toNat / 100), BitVec.ofNat 8 (b.toNat / 10 % 10), BitVec.ofNat 8 (b.toNat % 10)]

end Sys2Proof.Machine
end

