-- ==== Sys2Proof/Machine/ControlFlow.lean ====
section
/-! DEFINITION. Control transfer and skips (spec/41_control_flow.md R93 to R100). In every rule the state is the one after the
fetch, so PC is already pc_i + 2 (R12). -/

namespace Sys2Proof.Machine

/-- `00EE` RET (R93). -/
def execRet (s : State) : Host.Outcome State Fault Refusal :=
  execute (encode .ret) false (fun p =>
    match p.pop with
    | .error f => .error f
    | .ok (target, q) => .ok (q.jump target)) s

/-- `1nnn` JP nnn (R94). -/
def execJp (nnn : Addr) (s : State) : Host.Outcome State Fault Refusal :=
  execute (encode (.jp nnn)) false (fun p => .ok (p.jump (addrWord nnn))) s

/-- `2nnn` CALL nnn (R95): the return address is PC, pc_i + 2. -/
def execCall (nnn : Addr) (s : State) : Host.Outcome State Fault Refusal :=
  execute (encode (.call nnn)) false (fun p =>
    match p.push p.pc with
    | .error f => .error f
    | .ok q => .ok (q.jump (addrWord nnn))) s

/-- `3xnn` SE Vx, nn (R96). -/
def execSeImm (x : Reg) (nn : Byte) (s : State) : Host.Outcome State Fault Refusal :=
  execute (encode (.seImm x nn)) false (fun p => .ok (p.skipIf (p.reg x == nn))) s

/-- `4xnn` SNE Vx, nn (R97). -/
def execSneImm (x : Reg) (nn : Byte) (s : State) : Host.Outcome State Fault Refusal :=
  execute (encode (.sneImm x nn)) false (fun p => .ok (p.skipIf (p.reg x != nn))) s

/-- `5xy0` SE Vx, Vy (R98). -/
def execSeReg (x y : Reg) (s : State) : Host.Outcome State Fault Refusal :=
  execute (encode (.seReg x y)) false (fun p => .ok (p.skipIf (p.reg x == p.reg y))) s

/-- `9xy0` SNE Vx, Vy (R99). -/
def execSneReg (x y : Reg) (s : State) : Host.Outcome State Fault Refusal :=
  execute (encode (.sneReg x y)) false (fun p => .ok (p.skipIf (p.reg x != p.reg y))) s

/-- `Bnnn` JP V0, nnn (R100): V0 always, the x nibble is part of nnn. -/
def execJpV0 (nnn : Addr) (s : State) : Host.Outcome State Fault Refusal :=
  execute (encode (.jpV0 nnn)) false (fun p => .ok (p.jump (jumpV0Target nnn (p.reg 0)))) s

end Sys2Proof.Machine
end

