-- ==== Sys2Proof/Machine/Display.lean ====
section
/-! DEFINITION. The display buffer: clear, toggle, and the instructions 00E0 and Dxyn (spec/44_display.md R121 to R126). -/

namespace Sys2Proof.Machine

/-- `toggle(j)` (R122): the buffer with cell j mod 2048 inverted, and whether the cell was set. -/
def toggle (d : Cells) (j : Nat) : Cells × Bool :=
  (d ^^^ BitVec.twoPow Config.dispCells (j % Config.dispCells), d.getLsbD (j % Config.dispCells))

/-- The cells toggled one after another, and whether one of them was set before its toggle (R124). -/
def toggleAll (d : Cells) (hit : Bool) : List Nat → Cells × Bool
  | [] => (d, hit)
  | j :: js => toggleAll (toggle d j).1 (hit || (toggle d j).2) js

/-- The cells of one sprite row whose leftmost pixel is at linear index `base`: bit 7 at `base`, bit 0 at `base + 7` (R125). -/
def rowCells (base : Nat) (row : Byte) : List Nat :=
  ((List.range 8).filter (fun c => row.getLsbD (7 - c))).map (fun c => base + c)

/-- The cells of a sprite, row by row: pixel (r, c) at linear index (y0 + r) * 64 + x0 + c, before the reduction modulo 2048
(R124, R125). -/
def spriteCells (x0 y0 : Nat) : List Byte → List Nat
  | [] => []
  | row :: rows => rowCells (y0 * Config.dispW + x0) row ++ spriteCells x0 (y0 + 1) rows

/-- The sprite drawn with XOR at the cells the start point gives, and VF the collision, written last (R22, R124). -/
def State.drawSprite (s : State) (x0 y0 : Nat) (rows : List Byte) : State :=
  let drawn := toggleAll s.disp false (spriteCells x0 y0 rows)
  State.setReg { s with disp := drawn.1 } VF (flagByte drawn.2)

/-- `00E0` CLS (R121, R123). -/
def execCls (s : State) : Host.Outcome State Fault Refusal :=
  execute (encode .cls) true (fun p => .ok { p with disp := 0 }) s

/-- `Dxyn` DRW Vx, Vy, n (R124): the start point is reduced per axis, the pixels wrap linearly (C2, D30); with n = 0 nothing is
read or drawn and VF is 0 (R125). -/
def execDrw (x y : Reg) (n : Fin 16) (s : State) : Host.Outcome State Fault Refusal :=
  execute (encode (.drw x y n)) true (fun p =>
    match p.memReads (p.effAddr 0) n.val with
    | .error f => .error f
    | .ok rows => .ok (p.drawSprite ((p.reg x).toNat % Config.dispW) ((p.reg y).toNat % Config.dispH) rows)) s

end Sys2Proof.Machine
end

