-- ==== Sys2Proof/Machine/IndexMemory.lean ====
section
/-! DEFINITION. The index register and memory transfers (spec/43_index_memory.md R114 to R119). -/

namespace Sys2Proof.Machine

/-- `I <- w`. -/
def State.setI (s : State) (w : Word) : State := { s with i := w }

/-- `Annn` LD I, nnn (R114). -/
def execLdI (nnn : Addr) (s : State) : Host.Outcome State Fault Refusal :=
  execute (encode (.ldI nnn)) false (fun p => .ok (p.setI (addrWord nnn))) s

/-- `Fx1E` ADD I, Vx (R115): VF is not written. -/
def execAddI (x : Reg) (s : State) : Host.Outcome State Fault Refusal :=
  execute (encode (.addI x)) false (fun p => .ok (p.setI (indexSum p.i (p.reg x)))) s

/-- `Fx29` LD F, Vx (R116). -/
def execLdF (x : Reg) (s : State) : Host.Outcome State Fault Refusal :=
  execute (encode (.ldF x)) false (fun p => .ok (p.setI (glyphAddr (p.reg x)))) s

/-- `Fx33` LD B, Vx (R117). -/
def execLdB (x : Reg) (s : State) : Host.Outcome State Fault Refusal :=
  execute (encode (.ldB x)) false (fun p => p.memWrites (p.effAddr 0) (decimalDigits (p.reg x))) s

/-- `Fx55` LD [I], Vx (R118): I is unchanged (D12). -/
def execLdStore (x : Reg) (s : State) : Host.Outcome State Fault Refusal :=
  execute (encode (.ldStore x)) false (fun p => p.memWrites (p.effAddr 0) (p.regsTo x)) s

/-- `Fx65` LD Vx, [I] (R119): I is unchanged (D12). -/
def execLdLoad (x : Reg) (s : State) : Host.Outcome State Fault Refusal :=
  execute (encode (.ldLoad x)) false (fun p =>
    match p.memReads (p.effAddr 0) (x.val + 1) with
    | .error f => .error f
    | .ok bytes => .ok (p.setRegs bytes)) s

end Sys2Proof.Machine
end

