-- ==== Sys2Proof/Machine/KeysTimers.lean ====
section
/-! DEFINITION. The key and timer instructions (spec/45_keys_timers.md R127 to R133). The keys are those latched at this step
(R82). -/

namespace Sys2Proof.Machine

/-- `Ex9E` SKP Vx (R127). -/
def execSkp (x : Reg) (s : State) : Host.Outcome State Fault Refusal :=
  execute (encode (.skp x)) false (fun p =>
    match keyIndex (p.reg x) with
    | .error f => .error f
    | .ok k => .ok (p.skipIf (p.keyDown k))) s

/-- `ExA1` SKNP Vx (R129). -/
def execSknp (x : Reg) (s : State) : Host.Outcome State Fault Refusal :=
  execute (encode (.sknp x)) false (fun p =>
    match keyIndex (p.reg x) with
    | .error f => .error f
    | .ok k => .ok (p.skipIf (!p.keyDown k))) s

/-- No key pressed: back to the same word, and MODE is AWAITING_KEY (R87, R130). -/
def State.waitForKey (s : State) : State := { s with pc := s.pc - 2, mode := .awaitingKey }

/-- `Fx0A` LD Vx, K (R130): the level of K, not an edge. -/
def execLdVxK (x : Reg) (s : State) : Host.Outcome State Fault Refusal :=
  execute (encode (.ldVxK x)) false (fun p =>
    match firstKey p.k with
    | none => .ok p.waitForKey
    | some k => .ok (p.setReg x (BitVec.ofNat 8 k))) s

/-- `Fx07` LD Vx, DT (R131). -/
def execLdVxDT (x : Reg) (s : State) : Host.Outcome State Fault Refusal :=
  execute (encode (.ldVxDT x)) false (fun p => .ok (p.setReg x p.dt)) s

/-- `DT <- b`. -/
def State.setDT (s : State) (b : Byte) : State := { s with dt := b }

/-- `ST <- b`. -/
def State.setST (s : State) (b : Byte) : State := { s with st := b }

/-- `Fx15` LD DT, Vx (R132). -/
def execLdDTVx (x : Reg) (s : State) : Host.Outcome State Fault Refusal :=
  execute (encode (.ldDTVx x)) false (fun p => .ok (p.setDT (p.reg x))) s

/-- `Fx18` LD ST, Vx (R133). -/
def execLdSTVx (x : Reg) (s : State) : Host.Outcome State Fault Refusal :=
  execute (encode (.ldSTVx x)) false (fun p => .ok (p.setST (p.reg x))) s

end Sys2Proof.Machine
end

