-- ==== Sys2Proof/Machine/NoOp.lean ====
section
/-! DEFINITION. The unrecognised word (spec/40_cycle.md R90). -/

namespace Sys2Proof.Machine

/-- Any word no row matches: nothing beyond the fetch (R90). -/
def execUnrecognised (w : Word) (s : State) : Host.Outcome State Fault Refusal :=
  execute (encode (.unrecognised w)) false .ok s

end Sys2Proof.Machine
end

