-- ==== Sys2Proof/Machine/HostOps.lean ====
section
/-! DEFINITION. The host's operations other than step (spec/00_scope.md R6): construct/reset, load, tick, and the read-only
views. -/

namespace Sys2Proof.Machine

/-- `construct`/`reset` (R153, R154): every piece of the core's state at its reset value, with the machine's own font. What
stands outside the core (the snapshot port, the pending requests, the random source) is the host's and stays (log 8). -/
def State.construct (s : State) : State :=
  { State.reset with mem := ⟨s.mem.font, []⟩, keysIn := s.keysIn, inbox := s.inbox, schedule := s.schedule, draws := s.draws }

/-- `load(rom)` (R52, R53): the bytes verbatim from 0x200 on; too long a ROM is the fault RomTooLarge, with memory unchanged;
out of turn it is refused. -/
def State.load (s : State) (rom : List Byte) : Host.Outcome State Fault Refusal :=
  if s.faulted || s.loaded then .refused .loadOutOfTurn
  else if rom.length > Config.romMax then .next (s.takeFault (.romTooLarge rom.length) 0)
  else .next { s with mem := s.mem.writeAll Config.progBase rom, loaded := true, reply := .loadOk }

/-- One tick of a timer: down by one while above zero (R134, R135). -/
def countDown (t : Byte) : Byte := if t.toNat > 0 then BitVec.ofNat 8 (t.toNat - 1) else t

/-- `tick()` (R134): both timers, each by its own test; nothing once a fault is recorded. -/
def State.tick (s : State) : State :=
  if s.faulted then { s with reply := .nothing }
  else { s with dt := countDown s.dt, st := countDown s.st, reply := .nothing }

/-- `display()` (R120): the 2048 cells, row-major; a read-only view. -/
def State.display (s : State) : List Bool := (List.range Config.dispCells).map s.disp.getLsbD

/-- What `debug()` returns (R148). -/
structure DebugView where
  v      : Vector Byte 16
  pc     : Word
  lastOp : Word
  dt     : Byte
  st     : Byte
  deriving DecidableEq, Repr

/-- `debug()` (R148): a read-only view. The tone view is `State.tone` (R137); MODE, I, SP and FAULT are read from the state
(R148, D20). -/
def State.debug (s : State) : DebugView := ⟨s.v, s.pc, s.lastOp, s.dt, s.st⟩

end Sys2Proof.Machine
end

