-- ==== Sys2Proof/Machine/Cycle.lean ====
section
/-! DEFINITION. The step operation of the core (spec/40_cycle.md R80, R81) and the performing of a host request (spec/00_scope.md
R6). -/

namespace Sys2Proof.Machine

/-- `step(keys)` (R81) with the snapshot the port `keysIn` holds: a recorded fault is returned again and nothing changes (R89);
before load the step is refused (R80); else fetch (R57, R83), decode (R84) and execute (R85). -/
def coreStep (s : State) : Host.Outcome State Fault Refusal :=
  if s.faulted then .next { s with reply := .fault s.fault }
  else if !s.loaded then .refused .stepBeforeLoad
  else
    match s.fetch16 s.pc.toNat with
    | .error f => .next (s.takeFault f 0)
    | .ok w => exec (decode w) s

/-- The operation the host requests (R6). -/
def perform : Request → State → Host.Outcome State Fault Refusal
  | .reset, s => .next s.construct
  | .load rom, s => s.load rom
  | .step keys, s => coreStep { s with keysIn := keys }
  | .tick, s => .next s.tick

/-- The next request of the schedule (R7, D18): the first of the round, or, where that is empty, a step with the snapshot given
last; of a free schedule the free value of its index (log 18). -/
def Schedule.next (keys : Keys) : Schedule → Request
  | .repeating [] => .step keys
  | .repeating (r :: _) => r
  | .free n => Config.hostRequest n

/-- What is pending once the schedule's next request is taken: the rest of the round. -/
def Schedule.pending : Schedule → List Request
  | .repeating round => round.tail
  | .free _ => []

/-- The schedule from then on: the same round again, or the free schedule from its next index. -/
def Schedule.after : Schedule → Schedule
  | .repeating round => .repeating round
  | .free n => .free (n + 1)

/-- The host's next request: the oldest pending one; with none pending, the schedule's (log 1, log 18). -/
def State.nextRequest (s : State) : Request :=
  match s.inbox with
  | [] => s.schedule.next s.keysIn
  | r :: _ => r

/-- The pending requests once the next one is taken. -/
def State.inboxAfter (s : State) : List Request :=
  match s.inbox with
  | [] => s.schedule.pending
  | _ :: rs => rs

/-- The schedule once the next request is taken: it moves on only where no request was pending. -/
def State.scheduleAfter (s : State) : Schedule :=
  match s.inbox with
  | [] => s.schedule.after
  | _ :: _ => s.schedule

/-- The state with the next request taken. -/
def State.served (s : State) : State := { s with inbox := s.inboxAfter, schedule := s.scheduleAfter }

/-- Memory with the word that is fetched at an address: high byte first (R54). -/
def Memory.writeWord (m : Memory) (a : Nat) (w : Word) : Memory := (m.write a (highByte w)).write (a + 1) (lowByte w)

/-- The pending requests such that the next request is a step: unchanged where it is one already (log 13). -/
def State.steppingInbox (s : State) : List Request :=
  match s.inbox, s.schedule with
  | [], .repeating [] => []
  | [], .repeating (.step _ :: _) => []
  | .step keys :: rs, _ => .step keys :: rs
  | rs, _ => .step s.keysIn :: rs

/-- A program word placed where the next step fetches it, and what else that step needs: the program counts as loaded (R80), no
fault is recorded (R89), and the next request is a step (log 13). A PC above 0xFFE has no place for a word (R57): memory is then
unchanged. -/
def State.placeWord (s : State) (w : Word) : State :=
  { s with
    mem := if s.pc.toNat + 1 > 0xFFF then s.mem else s.mem.writeWord s.pc.toNat w
    loaded := true
    fault := FaultRecord.clear
    inbox := s.steppingInbox }

end Sys2Proof.Machine
end

