-- ==== Sys2Proof/Machine/Step.lean ====
section
/-! DEFINITION. One step of the machine: the host's next request, performed (spec/00_scope.md R6, R7). -/

namespace Sys2Proof.Machine

/-- One operation of the core: the host's next request is taken and performed (R6, R7, log 1, log 18). -/
def step (s : State) : Host.Outcome State Fault Refusal := perform s.nextRequest s.served

/-- s with the `nbits`-bit word w stored where the next step fetches (log 13). -/
def State.withFetchWord (s : State) (nbits w : Nat) : State := s.placeWord (BitVec.ofNat 16 (w % 2 ^ nbits))

end Sys2Proof.Machine
end

