-- ==== Sys2Proof/Safety.lean ====
section
/-! DEFINITION. What counts as a safe run, and the words the claims are stated in: the fault-free run and its end
(spec/60_exceptions.md R150), the invariant of the machine (R25, R28, R33, R35, R143), and the tables of the spec that say what an
instruction may write (spec/10_state.md R22, R23, R24). -/

namespace Sys2Proof.Machine

/-- A run is safe while no fault is recorded (R138, R150). -/
def State.safe (s : State) : Prop := s.fault.kind = .none

/-- The end of a run, parked (R150): the word at PC is 1nnn with nnn = PC. -/
def State.parked (s : State) : Prop :=
  s.pc.toNat < 0x1000 ∧ s.fetch16 s.pc.toNat = .ok (encode (.jp (s.pc.setWidth 12)))

/-- The end of a run, faulted (R150): a fault is recorded. -/
def State.endedFaulted (s : State) : Prop := s.fault.kind ≠ .none

/-- The invariant of the machine: what every step keeps, from every state that has it. -/
structure State.Inv (s : State) : Prop where
  /-- Memory keeps its canonical form. -/
  memWf : s.mem.wf
  /-- PC is at most 0x10FE: the largest value an instruction leaves (R25). -/
  pcBound : s.pc.toNat ≤ 0x10FE
  /-- Every saved return address was once a PC after a fetch, so at most 0x1000 (R25, R27). -/
  stackBound : ∀ j : Fin 16, j.val < s.sp.val → s.stack[j.val].toNat ≤ 0x1000
  /-- Where no fault is recorded, every field of FAULT is the cleared one (R35, R154). -/
  faultClear : s.fault.kind = .none → s.fault = FaultRecord.clear
  /-- Before load the PC is the entry point (R154, R155). -/
  entry : s.loaded = false → s.pc = 0x200
  /-- A machine that waits for a key holds an Fx0A at PC, which was the last word fetched, with no key in its snapshot
  (R87, R130, R151). -/
  waiting : s.mode = .awaitingKey →
    s.loaded = true ∧ s.k = 0 ∧ (∃ x, decode s.lastOp = .ldVxK x) ∧ s.fetch16 s.pc.toNat = .ok s.lastOp

/-- Every piece of the core's state at its reset value, MEM zero but for the 80 bytes of the machine's FONT (R37, R154). -/
structure State.AtReset (font : Font) (t : State) : Prop where
  v      : ∀ x, t.reg x = 0x00
  pc     : t.pc = 0x200
  i      : t.i = 0x0000
  sp     : t.sp.val = 0
  stack  : ∀ j : Fin 16, t.stack[j.val] = 0x0000
  dt     : t.dt = 0
  st     : t.st = 0
  disp   : ∀ c < 2048, t.disp.getLsbD c = false
  k      : ∀ k < 16, t.k.getLsbD k = false
  mode   : t.mode = .running
  lastOp : t.lastOp = 0x0000
  fault  : t.fault = ⟨.none, 0, 0, .none, 0⟩
  loaded : t.loaded = false
  glyphs : ∀ g : Fin 80, t.mem.read (0x050 + g.val) = font[g.val]
  zeros  : ∀ a < 0x1000, a < 0x050 ∨ 0x0A0 ≤ a → t.mem.read a = 0x00

end Sys2Proof.Machine

namespace Sys2Proof

open Sys2Proof.Machine (State)

/-- The general registers an instruction may write, VF as flag included (R22, R23). -/
def Instr.writes : Instr → Reg → Prop
  | .ldImm x _, y | .addImm x _, y | .ldReg x _, y | .orReg x _, y | .andReg x _, y | .xorReg x _, y => y = x
  | .addReg x _, y | .sub x _, y | .shr x _, y | .subn x _, y | .shl x _, y => y = x ∨ y = VF
  | .rnd x _, y | .ldVxDT x, y | .ldVxK x, y => y = x
  | .drw _ _ _, y => y = VF
  | .ldLoad x, y => y.val ≤ x.val
  | .cls, _ | .ret, _ | .jp _, _ | .call _, _ | .seImm _ _, _ | .sneImm _ _, _ | .seReg _ _, _ | .sneReg _ _, _ => False
  | .ldI _, _ | .jpV0 _, _ | .skp _, _ | .sknp _, _ | .ldDTVx _, _ | .ldSTVx _, _ | .addI _, _ | .ldF _, _ => False
  | .ldB _, _ | .ldStore _, _ | .unrecognised _, _ => False

/-- The instructions that change the display buffer: 00E0 and Dxyn (R31, R86). -/
def Instr.redraws : Instr → Bool
  | .cls | .drw _ _ _ => true
  | .ret | .jp _ | .call _ | .seImm _ _ | .sneImm _ _ | .seReg _ _ | .ldImm _ _ | .addImm _ _ | .ldReg _ _ => false
  | .orReg _ _ | .andReg _ _ | .xorReg _ _ | .addReg _ _ | .sub _ _ | .shr _ _ | .subn _ _ | .shl _ _ => false
  | .sneReg _ _ | .ldI _ | .jpV0 _ | .rnd _ _ | .skp _ | .sknp _ | .ldVxDT _ | .ldVxK _ | .ldDTVx _ => false
  | .ldSTVx _ | .addI _ | .ldF _ | .ldB _ | .ldStore _ | .ldLoad _ | .unrecognised _ => false

/-- How many bytes an instruction stores, at I, I + 1, ... (R51, R117, R118). -/
def Instr.stores : Instr → Nat
  | .ldB _ => 3
  | .ldStore x => x.val + 1
  | .cls | .ret | .jp _ | .call _ | .seImm _ _ | .sneImm _ _ | .seReg _ _ | .ldImm _ _ | .addImm _ _ | .ldReg _ _ => 0
  | .orReg _ _ | .andReg _ _ | .xorReg _ _ | .addReg _ _ | .sub _ _ | .shr _ _ | .subn _ _ | .shl _ _ => 0
  | .sneReg _ _ | .ldI _ | .jpV0 _ | .rnd _ _ | .drw _ _ _ | .skp _ | .sknp _ | .ldVxDT _ | .ldVxK _ => 0
  | .ldDTVx _ | .ldSTVx _ | .addI _ | .ldF _ | .ldLoad _ | .unrecognised _ => 0

/-- The PC after an instruction that completes, from the state at the start of its step (the table of R24): most leave the fetch
address plus 2. -/
def Instr.pcAfter (i : Instr) (s : State) : Word :=
  match i with
  | .ret => if h : s.sp.val = 0 then s.pc else s.stack[s.sp.val - 1]'(by omega)
  | .jp nnn | .call nnn => nnn.setWidth 16
  | .jpV0 nnn => nnn.setWidth 16 + (s.reg 0).setWidth 16
  | .seImm x nn => if s.reg x = nn then s.pc + 4 else s.pc + 2
  | .sneImm x nn => if s.reg x ≠ nn then s.pc + 4 else s.pc + 2
  | .seReg x y => if s.reg x = s.reg y then s.pc + 4 else s.pc + 2
  | .sneReg x y => if s.reg x ≠ s.reg y then s.pc + 4 else s.pc + 2
  | .skp x => if s.keysIn.getLsbD (s.reg x).toNat then s.pc + 4 else s.pc + 2
  | .sknp x => if s.keysIn.getLsbD (s.reg x).toNat then s.pc + 2 else s.pc + 4
  | .ldVxK _ => if s.keysIn = 0 then s.pc else s.pc + 2
  | .cls | .ldImm _ _ | .addImm _ _ | .ldReg _ _ | .orReg _ _ | .andReg _ _ | .xorReg _ _ | .addReg _ _ => s.pc + 2
  | .sub _ _ | .shr _ _ | .subn _ _ | .shl _ _ | .ldI _ | .rnd _ _ | .drw _ _ _ | .ldVxDT _ => s.pc + 2
  | .ldDTVx _ | .ldSTVx _ | .addI _ | .ldF _ | .ldB _ | .ldStore _ | .ldLoad _ | .unrecognised _ => s.pc + 2

end Sys2Proof

namespace Sys2Proof.Machine

/-- What every completed step does around its instruction (R81): the keys latched, PC past the word, LAST_OP the word, MODE RUNNING,
and the outputs of R86, with nothing else of the state changed. A claim says what an instruction does on top of it. -/
def State.stepped (s : State) (i : Instr) : State :=
  { s with k := s.keysIn, pc := s.pc + 2, lastOp := encode i, mode := .running, reply := .stepOk i.redraws (s.st == 1) }

/-- What a faulting step leaves (R88, R141): the state as it was, but for the record and its return to the host. -/
def State.faultedWith (s : State) (r : FaultRecord) : State := { s with fault := r, reply := .fault r }

/-- A cell of the display is under a set bit of a sprite drawn at column x0 and row y0: bit 7 - c of row r at linear index
(y0 + r) * 64 + x0 + c, modulo 2048 (R124, R125). -/
def covered (x0 y0 : Nat) (rows : List Byte) (cell : Nat) : Prop :=
  ∃ r c, ∃ h : r < rows.length, c < 8 ∧ (rows[r]'h).getLsbD (7 - c) = true ∧ ((y0 + r) * 64 + x0 + c) % 2048 = cell

end Sys2Proof.Machine
end

