-- ==== Sys2Proof/Certificates/Slice0/Obligations.lean ====
section
/-! DEFINITION. The statements about the model. `s.stepped i` (Safety.lean) is the state with the bookkeeping every completed step does
(keys latched, PC past the word, LAST_OP, MODE RUNNING, the outputs) and nothing else changed, so a result written as an update of it
is the instruction's completion, its result and its frame at once. That its outputs are the dirty bit of the row and the tone after the
instruction are the spec's own decisions D15 and D16, and that they stand in State is log 6. A Note under a statement names the spec's
own decisions and the log entries it rests on. -/

open Sys2Proof Sys2Proof.Machine

/-! ### Reset, decode and encode -/

/-- R154 (with R37, R153): the state after construction, MEM zero but for the machine's FONT.
Note: The values are the spec's own decisions D2, D3, D4 (log 5); that the machine's font is data in State, here the default one, is log 4. -/
def Obligations.ResetGivesEveryResetValue : Prop :=
  State.reset.AtReset State.reset.mem.font

/-- R154, R152, R142: a reset requested in any state, a faulted one too, sets every piece of the core's state to its reset value.
Note: Rests on the spec's own decisions D2, D4, D7 (log 5), and on log 4 (the font is data in State). -/
def Obligations.ResetRequestRestoresEveryResetValue : Prop :=
  ∀ s : State, ∃ t, perform .reset s = .next t ∧ t.AtReset s.mem.font ∧ t.mem.font = s.mem.font

/-- R69: words written out from the encodings decode to their instructions, one for each layout and family.
Note: Rests on the spec's own decision D9 (log 5). -/
def Obligations.WrittenWordsDecodeToTheirInstructions : Prop :=
  decode 0b0000000011100000 = .cls ∧ decode 0b0000000011101110 = .ret ∧ decode 0b0001101010111100 = .jp 0xABC ∧
  decode 0b0011001101000010 = .seImm 3 0x42 ∧ decode 0b0101000100100000 = .seReg 1 2 ∧
  decode 0b1000000100100100 = .addReg 1 2 ∧ decode 0b1000001101001110 = .shl 3 4 ∧
  decode 0b1100000100001111 = .rnd 1 0x0F ∧ decode 0b1010001011110000 = .ldI 0x2F0 ∧
  decode 0b1101000000010101 = .drw 0 1 5 ∧ decode 0b1110001010011110 = .skp 2 ∧ decode 0b1111001100001010 = .ldVxK 3 ∧
  decode 0b1111010100110011 = .ldB 5 ∧ decode 0b1111001001100101 = .ldLoad 2 ∧
  decode 0b0101000100100001 = .unrecognised 0x5121

/-- R66, R68, R69: the decoder reads back every instruction the encoder writes, every operand at every value.
Note: Rests on the spec's own decision D9 (log 5). -/
def Obligations.DecodeReadsBackEveryEncodedInstruction : Prop :=
  ∀ i : Instr, i.wf = true → decode (encode i) = i

/-- R66, R71: every word decodes to a term that stands for a word, and that term encodes to the word: no bit is lost. -/
def Obligations.EveryWordDecodesAndKeepsItsBits : Prop :=
  ∀ w : Word, (decode w).wf = true ∧ encode (decode w) = w

/-- R69: the (match, mask) pair of each row of the table, read on any word, gives the row's instruction with the word's fields.
Note: Rests on the spec's own decision D9 (log 5). -/
def Obligations.MatchingARowDecodesToItsInstruction : Prop :=
  ∀ w : Word,
    (w &&& 0xFFFF#16 = 0x00E0#16 → decode w = .cls) ∧ (w &&& 0xFFFF#16 = 0x00EE#16 → decode w = .ret) ∧
    (w &&& 0xF000#16 = 0x1000#16 → decode w = .jp (nnnField w)) ∧ (w &&& 0xF000#16 = 0x2000#16 → decode w = .call (nnnField w)) ∧
    (w &&& 0xF000#16 = 0x3000#16 → decode w = .seImm (xField w) (nnField w)) ∧
    (w &&& 0xF000#16 = 0x4000#16 → decode w = .sneImm (xField w) (nnField w)) ∧
    (w &&& 0xF00F#16 = 0x5000#16 → decode w = .seReg (xField w) (yField w)) ∧
    (w &&& 0xF000#16 = 0x6000#16 → decode w = .ldImm (xField w) (nnField w)) ∧
    (w &&& 0xF000#16 = 0x7000#16 → decode w = .addImm (xField w) (nnField w)) ∧
    (w &&& 0xF00F#16 = 0x8000#16 → decode w = .ldReg (xField w) (yField w)) ∧
    (w &&& 0xF00F#16 = 0x8001#16 → decode w = .orReg (xField w) (yField w)) ∧
    (w &&& 0xF00F#16 = 0x8002#16 → decode w = .andReg (xField w) (yField w)) ∧
    (w &&& 0xF00F#16 = 0x8003#16 → decode w = .xorReg (xField w) (yField w)) ∧
    (w &&& 0xF00F#16 = 0x8004#16 → decode w = .addReg (xField w) (yField w)) ∧
    (w &&& 0xF00F#16 = 0x8005#16 → decode w = .sub (xField w) (yField w)) ∧
    (w &&& 0xF00F#16 = 0x8006#16 → decode w = .shr (xField w) (yField w)) ∧
    (w &&& 0xF00F#16 = 0x8007#16 → decode w = .subn (xField w) (yField w)) ∧
    (w &&& 0xF00F#16 = 0x800E#16 → decode w = .shl (xField w) (yField w)) ∧
    (w &&& 0xF00F#16 = 0x9000#16 → decode w = .sneReg (xField w) (yField w)) ∧
    (w &&& 0xF000#16 = 0xA000#16 → decode w = .ldI (nnnField w)) ∧ (w &&& 0xF000#16 = 0xB000#16 → decode w = .jpV0 (nnnField w)) ∧
    (w &&& 0xF000#16 = 0xC000#16 → decode w = .rnd (xField w) (nnField w)) ∧
    (w &&& 0xF000#16 = 0xD000#16 → decode w = .drw (xField w) (yField w) (nField w)) ∧
    (w &&& 0xF0FF#16 = 0xE09E#16 → decode w = .skp (xField w)) ∧ (w &&& 0xF0FF#16 = 0xE0A1#16 → decode w = .sknp (xField w)) ∧
    (w &&& 0xF0FF#16 = 0xF007#16 → decode w = .ldVxDT (xField w)) ∧ (w &&& 0xF0FF#16 = 0xF00A#16 → decode w = .ldVxK (xField w)) ∧
    (w &&& 0xF0FF#16 = 0xF015#16 → decode w = .ldDTVx (xField w)) ∧ (w &&& 0xF0FF#16 = 0xF018#16 → decode w = .ldSTVx (xField w)) ∧
    (w &&& 0xF0FF#16 = 0xF01E#16 → decode w = .addI (xField w)) ∧ (w &&& 0xF0FF#16 = 0xF029#16 → decode w = .ldF (xField w)) ∧
    (w &&& 0xF0FF#16 = 0xF033#16 → decode w = .ldB (xField w)) ∧ (w &&& 0xF0FF#16 = 0xF055#16 → decode w = .ldStore (xField w)) ∧
    (w &&& 0xF0FF#16 = 0xF065#16 → decode w = .ldLoad (xField w))

/-- R71: the words that decode to the fallback are exactly: 0nnn but 00E0 and 00EE; 5xyN and 9xyN with N not 0; 8xyN with N one of 8, 9, A, B,
C, D, F; ExNN with NN neither 9E nor A1; FxNN with NN none of the nine.
Note: Rests on the spec's own decision D9 (log 5). -/
def Obligations.UnrecognisedWordsAreExactlyTheList : Prop :=
  ∀ w : Word, decode w = .unrecognised w ↔
    (w.toNat ≤ 0x0FFF ∧ w ≠ 0x00E0 ∧ w ≠ 0x00EE) ∨
    ((w.toNat / 0x1000 = 0x5 ∨ w.toNat / 0x1000 = 0x9) ∧ w.toNat % 0x10 ≠ 0) ∨
    (w.toNat / 0x1000 = 0x8 ∧ w.toNat % 0x10 ∈ [0x8, 0x9, 0xA, 0xB, 0xC, 0xD, 0xF]) ∨
    (w.toNat / 0x1000 = 0xE ∧ w.toNat % 0x100 ∉ [0x9E, 0xA1]) ∨
    (w.toNat / 0x1000 = 0xF ∧ w.toNat % 0x100 ∉ [0x07, 0x0A, 0x15, 0x18, 0x1E, 0x29, 0x33, 0x55, 0x65])

/-! ### The step and the host's operations -/

/-- R80, R81, R83, R84, R85: with a program loaded, no fault recorded and a step as the host's next request, the step is exactly `exec`
of the instruction the two bytes at PC decode to, on the state in which the request is taken and its snapshot is at the port.
Note: That the host's requests, its schedule and its snapshot stand in State is the model's choice, log 1, log 2 and log 18. -/
def Obligations.StepRunsTheDecodedInstruction : Prop :=
  ∀ (s : State) (keys : Keys) (w : Word),
    s.nextRequest = .step keys → s.fault.kind = .none → s.loaded = true → s.pc.toNat ≤ 0xFFE →
    w.toNat = (s.mem.read s.pc.toNat).toNat * 256 + (s.mem.read (s.pc.toNat + 1)).toNat →
    step s = exec (decode w) { s.served with keysIn := keys }

/-- R6, R7: the step serves the oldest pending request; with none pending it serves the schedule: a step with the snapshot given last, the
round over and over, or the n-th request of the free schedule. The core changes neither the pending requests nor the schedule, so any
endless sequence of requests is a run.
Note: The schedule is open in the spec (D18); that it stands in State as a list, a round and a free schedule, and what happens when the list is empty, are the model's choice, log 1 and log 18. -/
def Obligations.StepServesTheHostsRequests : Prop :=
  (∀ (s : State) (r : Request) (rest : List Request), s.inbox = r :: rest → step s = perform r { s with inbox := rest }) ∧
  (∀ s : State, s.inbox = [] → s.schedule = .repeating [] → step s = perform (.step s.keysIn) s) ∧
  (∀ (s : State) (r : Request) (rest : List Request), s.inbox = [] → s.schedule = .repeating (r :: rest) →
    step s = perform r { s with inbox := rest }) ∧
  (∀ (s : State) (n : Nat), s.inbox = [] → s.schedule = .free n →
    step s = perform (Config.hostRequest n) { s with schedule := .free (n + 1) }) ∧
  (∀ (r : Request) (s t : State), perform r s = .next t → t.inbox = s.inbox ∧ t.schedule = s.schedule)

/-- R80, R52, R72, D19 and log 7: the machine stops only where the host breaks its duty (a step before load, a load out of turn); no
instruction and no data stops it, and every fault is taken as a next state.
Note: The refusals are the spec's own decision D19 (log 5); that a fault is a next state is log 7. -/
def Obligations.MachineStopsOnlyOnAHostBreach : Prop :=
  (∀ (i : Instr) (s : State), ∃ t, exec i s = .next t) ∧
  (∀ (s : State) (f : Fault), step s ≠ .fault f) ∧
  (∀ (s : State) (r : Refusal), step s = .refused r ↔
    ((∃ keys, s.nextRequest = .step keys) ∧ s.fault.kind = .none ∧ s.loaded = false ∧ r = .stepBeforeLoad) ∨
    ((∃ rom, s.nextRequest = .load rom) ∧ (s.fault.kind ≠ .none ∨ s.loaded = true) ∧ r = .loadOutOfTurn))

/-- R52: load, in turn, copies the ROM to 0x200 onward and nothing else; a ROM of more than 3584 bytes is RomTooLarge with memory
unchanged; out of turn it is refused.
Note: Rests on the spec's own decisions D7, D19 (log 5). -/
def Obligations.LoadCopiesTheRomOrFaults : Prop :=
  ∀ (s : State) (rom : List Byte),
    (s.fault.kind = .none → s.loaded = false → s.mem.wf → rom.length ≤ 3584 →
      ∃ m : Memory, perform (.load rom) s = .next { s with mem := m, loaded := true, reply := .loadOk } ∧ m.font = s.mem.font ∧
        (∀ (j : Nat) (h : j < rom.length), m.read (0x200 + j) = rom[j]) ∧
        (∀ a, a < 0x200 ∨ 0x200 + rom.length ≤ a → m.read a = s.mem.read a)) ∧
    (s.fault.kind = .none → s.loaded = false → 3584 < rom.length →
      perform (.load rom) s = .next (s.faultedWith ⟨.romTooLarge, s.pc, 0, .none, rom.length⟩)) ∧
    (s.fault.kind ≠ .none ∨ s.loaded = true → perform (.load rom) s = .refused .loadOutOfTurn)

/-- R134: a tick takes one from each timer above zero, each by its own test, and changes nothing else; once a fault is recorded it
changes neither.
Note: Rests on the spec's own decisions D7, D19 (log 5). -/
def Obligations.TickDecrementsEachTimerAboveZero : Prop :=
  ∀ s : State, ∃ d e : Byte, perform .tick s = .next { s with dt := d, st := e, reply := .nothing } ∧
    (s.fault.kind = .none → d.toNat = s.dt.toNat - 1 ∧ e.toNat = s.st.toNat - 1) ∧
    (s.fault.kind ≠ .none → d = s.dt ∧ e = s.st)

/-- R135: after n ticks a timer reads max(v - n, 0), and stays at the floor.
Note: The spec marks the rule as derived from the tick rule. -/
def Obligations.TicksCountDownToTheFloor : Prop :=
  ∀ (n : Nat) (s : State), s.fault.kind = .none →
    (State.tick^[n] s).dt.toNat = s.dt.toNat - n ∧ (State.tick^[n] s).st.toNat = s.st.toNat - n

/-- R137: the tone is on exactly while ST = 1: after n ticks from a sound timer v >= 1, exactly when n = v - 1; with ST = 0 never.
Note: Rests on the spec's own decision D16 (log 5). -/
def Obligations.ToneIsOnForOneTickInterval : Prop :=
  ∀ (n : Nat) (s : State), s.fault.kind = .none →
    (s.tone = true ↔ s.st.toNat = 1) ∧ ((State.tick^[n] s).tone = true ↔ s.st.toNat = n + 1)

/-- R89, R143: a recorded fault is sticky: a step returns the record and changes nothing, a tick changes nothing, a load is refused,
and a reset clears it.
Note: Rests on the spec's own decisions D7, D19 (log 5). -/
def Obligations.FaultIsStickyUntilReset : Prop :=
  ∀ s : State, s.fault.kind ≠ .none →
    (∀ keys, perform (.step keys) s = .next { s with keysIn := keys, reply := .fault s.fault }) ∧
    perform .tick s = .next { s with reply := .nothing } ∧
    (∀ rom, perform (.load rom) s = .refused .loadOutOfTurn) ∧
    (∃ t, perform .reset s = .next t ∧ t.fault = ⟨.none, 0, 0, .none, 0⟩)

/-! ### Memory access and faults -/

/-- R57, R54: a fetch at 0x000 to 0xFFE is the big-endian word; at 0xFFF it raises the fault with 0x1000, above it with its own address.
Note: Rests on the spec's own decision D5 (log 5). -/
def Obligations.FetchIsBigEndianAndBounded : Prop :=
  ∀ (s : State) (a : Nat),
    (a ≤ 0xFFE → ∃ w, s.fetch16 a = .ok w ∧ w.toNat = (s.mem.read a).toNat * 256 + (s.mem.read (a + 1)).toNat) ∧
    (a = 0xFFF → s.fetch16 a = .error (.memoryOutOfBounds .fetch (a + 1))) ∧
    (0xFFF < a → s.fetch16 a = .error (.memoryOutOfBounds .fetch a))

/-- R56: a data access above 0xFFF raises the fault with its address; a store inside memory is what its address then reads as, and every
other address reads as before.
Note: Rests on the spec's own decision D5 (log 5). -/
def Obligations.DataAccessIsBoundedAndReadsBack : Prop :=
  ∀ (s : State) (a : Nat) (b : Byte),
    (0xFFF < a → s.memRead a = .error (.memoryOutOfBounds .read a) ∧ s.memWrite a b = .error (.memoryOutOfBounds .write a)) ∧
    (a ≤ 0xFFF → s.memRead a = .ok (s.mem.read a)) ∧
    (a ≤ 0xFFF → s.mem.wf → ∃ m : Memory, s.memWrite a b = .ok { s with mem := m } ∧ m.wf ∧
      ∀ c, m.read c = if c = a then b else s.mem.read c)

/-- R88, R141: the only state change of a faulting step is FAULT, which records the PC of the step and the fetched word (0 where the
fetch itself faulted), and the record is what the host gets.
Note: Rests on the spec's own decision D7 (log 5); that a fault is a next state is log 7. -/
def Obligations.FaultingStepChangesOnlyTheFaultRecord : Prop :=
  ∀ s t : State, s.fault.kind = .none → coreStep s = .next t → t.fault.kind ≠ .none →
    t = s.faultedWith t.fault ∧ t.fault.pc = s.pc ∧
    (∀ w, s.fetch16 s.pc.toNat = .ok w → t.fault.opcode = w) ∧
    (∀ f, s.fetch16 s.pc.toNat = .error f → t.fault.opcode = 0)

/-- R83, R57, R138: with a program loaded, a step whose PC is above 0xFFE faults at the fetch, with the first address outside memory.
Note: Rests on the spec's own decisions D5, D7 (log 5). -/
def Obligations.FetchOutsideMemoryFaults : Prop :=
  ∀ s : State, s.fault.kind = .none → s.loaded = true → 0xFFE < s.pc.toNat →
    coreStep s = .next (s.faultedWith ⟨.memoryOutOfBounds, s.pc, 0, .fetch, if s.pc.toNat = 0xFFF then 0x1000 else s.pc.toNat⟩)

/-- R138: 2nnn raises StackOverflow exactly with SP = 16, 00EE StackUnderflow with SP = 0, Ex9E and ExA1 KeyIndexOutOfRange with Vx >= 16, and
Fx33, Fx55, Fx65 and Dxyn (n > 0) MemoryOutOfBounds where an address they reach is above 0xFFF; no instruction raises RomTooLarge.
Note: Rests on the spec's own decisions D5, D6, D24 (log 5). -/
def Obligations.EachFaultKindHasItsInstructionsAndCondition : Prop :=
  ∀ (i : Instr) (s t : State), s.fault.kind = .none → exec i s = .next t →
    (t.fault.kind = .stackOverflow ↔ (∃ nnn, i = .call nnn) ∧ s.sp.val = 16) ∧
    (t.fault.kind = .stackUnderflow ↔ i = .ret ∧ s.sp.val = 0) ∧
    (t.fault.kind = .keyIndexOutOfRange ↔ ∃ x, (i = .skp x ∨ i = .sknp x) ∧ 16 ≤ (s.reg x).toNat) ∧
    (t.fault.kind = .memoryOutOfBounds ↔
      (∃ x, i = .ldB x ∧ 0xFFF < s.i.toNat + 2) ∨ (∃ x, i = .ldStore x ∧ 0xFFF < s.i.toNat + x.val) ∨
      (∃ x, i = .ldLoad x ∧ 0xFFF < s.i.toNat + x.val) ∨
      (∃ x y n, i = .drw x y n ∧ 0 < n.val ∧ 0xFFF < s.i.toNat + n.val - 1)) ∧
    t.fault.kind ≠ .romTooLarge

/-- R140, R138, R88: Fx33, Fx55, Fx65 and Dxyn report the lowest out-of-range address they reach and keep nothing of the step.
Note: Rests on the spec's own decisions D5, D7 (log 5). -/
def Obligations.MemoryFaultsReportTheLowestAddress : Prop :=
  ∀ (s : State) (x y : Reg) (n : Fin 16) (a : Nat), s.i.toNat ≤ a → 0xFFF < a → (∀ b, s.i.toNat ≤ b → 0xFFF < b → a ≤ b) →
    (0xFFF < s.i.toNat + 2 →
      exec (.ldB x) s = .next (s.faultedWith ⟨.memoryOutOfBounds, s.pc, encode (.ldB x), .write, a⟩)) ∧
    (0xFFF < s.i.toNat + x.val →
      exec (.ldStore x) s = .next (s.faultedWith ⟨.memoryOutOfBounds, s.pc, encode (.ldStore x), .write, a⟩)) ∧
    (0xFFF < s.i.toNat + x.val →
      exec (.ldLoad x) s = .next (s.faultedWith ⟨.memoryOutOfBounds, s.pc, encode (.ldLoad x), .read, a⟩)) ∧
    (0 < n.val → 0xFFF < s.i.toNat + n.val - 1 →
      exec (.drw x y n) s = .next (s.faultedWith ⟨.memoryOutOfBounds, s.pc, encode (.drw x y n), .read, a⟩))

/-- R138, R95, R93, R128: 2nnn with SP = 16, 00EE with SP = 0, and Ex9E and ExA1 with Vx >= 16 record their fault (info 0, 0, Vx, Vx) and change
nothing else.
Note: Rests on the spec's own decisions D6, D7 (log 5). -/
def Obligations.StackAndKeyFaultsAreRecorded : Prop :=
  ∀ (s : State) (nnn : Addr) (x : Reg),
    (s.sp.val = 16 → exec (.call nnn) s = .next (s.faultedWith ⟨.stackOverflow, s.pc, encode (.call nnn), .none, 0⟩)) ∧
    (s.sp.val = 0 → exec .ret s = .next (s.faultedWith ⟨.stackUnderflow, s.pc, 0x00EE, .none, 0⟩)) ∧
    (16 ≤ (s.reg x).toNat → exec (.skp x) s =
      .next (s.faultedWith ⟨.keyIndexOutOfRange, s.pc, encode (.skp x), .none, (s.reg x).toNat⟩)) ∧
    (16 ≤ (s.reg x).toNat → exec (.sknp x) s =
      .next (s.faultedWith ⟨.keyIndexOutOfRange, s.pc, encode (.sknp x), .none, (s.reg x).toNat⟩))

/-! ### Whole-machine frames: what a completed step (no fault) may change -/

/-- R82, R83, R34: a completed step has latched its snapshot and holds its word in LAST_OP; FAULT, LOADED, the font and what is the
host's are as before, and only Cxnn draws a random byte (log 3).
Note: The host's side (keysIn, inbox, schedule) is log 1, log 2 and log 18, the draw counter log 3, the font in State log 4. -/
def Obligations.CompletedStepLatchesKeysAndWord : Prop :=
  ∀ (i : Instr) (s t : State), s.fault.kind = .none → exec i s = .next t → t.fault.kind = .none →
    t.k = s.keysIn ∧ t.lastOp = encode i ∧ t.fault = s.fault ∧ t.loaded = s.loaded ∧ t.mem.font = s.mem.font ∧
    t.keysIn = s.keysIn ∧ t.inbox = s.inbox ∧ t.schedule = s.schedule ∧
    ((∃ x nn, i = .rnd x nn) → t.draws = s.draws + 1) ∧ ((¬ ∃ x nn, i = .rnd x nn) → t.draws = s.draws)

/-- R87: after a completed step MODE = AWAITING_KEY exactly when it executed Fx0A with no key pressed, else RUNNING. -/
def Obligations.ModeAwaitsAKeyOnlyAfterFx0A : Prop :=
  ∀ (i : Instr) (s t : State), s.fault.kind = .none → exec i s = .next t → t.fault.kind = .none →
    (t.mode = .awaitingKey ↔ (∃ x, i = .ldVxK x) ∧ ∀ k < 16, s.keysIn.getLsbD k = false) ∧
    (t.mode = .running ∨ t.mode = .awaitingKey)

/-- R86: display_dirty is 1 exactly for 00E0 and Dxyn, and tone_active is ST == 1 after the instruction.
Note: Rests on the spec's own decisions D15, D16 (log 5); that the outputs stand in State is log 6. -/
def Obligations.StepOutputsDirtyAndTone : Prop :=
  ∀ (i : Instr) (s t : State), s.fault.kind = .none → exec i s = .next t → t.fault.kind = .none →
    ∃ dirty tone, t.reply = .stepOk dirty tone ∧ (tone = true ↔ t.st.toNat = 1) ∧
      (dirty = true ↔ i = .cls ∨ ∃ x y n, i = .drw x y n)

/-- R24: PC after a completed step is what the table of R24 gives the instruction (`Instr.pcAfter`).
Note: That any PC value is legal is the spec's own decision D8 (log 5); PC is held modulo 65536 (log 14). -/
def Obligations.ProgramCounterFollowsTheTable : Prop :=
  ∀ (i : Instr) (s t : State), s.fault.kind = .none → exec i s = .next t → t.fault.kind = .none → t.pc = i.pcAfter s

/-- R23: a completed step changes no general register but those the table gives the instruction (`Instr.writes`). -/
def Obligations.OnlyTheTabledRegistersChange : Prop :=
  ∀ (i : Instr) (s t : State), s.fault.kind = .none → exec i s = .next t → t.fault.kind = .none →
    ∀ y : Reg, ¬ i.writes y → t.reg y = s.reg y

/-- R22: exactly 8xy4, 8xy5, 8xy6, 8xy7, 8xyE and Dxyn write VF as a flag, with 0 or 1 from the operands as they were, whatever x and y
are; any other instruction leaves VF alone unless VF is its destination.
Note: Rests on the spec's own decisions D10, D11 (log 5). -/
def Obligations.FlagIsWrittenLastByExactlySixInstructions : Prop :=
  ∀ (i : Instr) (s t : State), s.fault.kind = .none → exec i s = .next t → t.fault.kind = .none →
    (∀ x y, i = .addReg x y → (t.reg VF).toNat = if (s.reg x).toNat + (s.reg y).toNat > 255 then 1 else 0) ∧
    (∀ x y, i = .sub x y → (t.reg VF).toNat = if (s.reg x).toNat > (s.reg y).toNat then 1 else 0) ∧
    (∀ x y, i = .subn x y → (t.reg VF).toNat = if (s.reg y).toNat > (s.reg x).toNat then 1 else 0) ∧
    (∀ x y, i = .shr x y → (t.reg VF).toNat = (s.reg x).toNat % 2) ∧
    (∀ x y, i = .shl x y → (t.reg VF).toNat = (s.reg x).toNat / 128) ∧
    (∀ x y n, i = .drw x y n → ((t.reg VF).toNat = 0 ∨ (t.reg VF).toNat = 1) ∧
      ((t.reg VF).toNat = 1 ↔ ∃ c < 2048, s.disp.getLsbD c = true ∧ t.disp.getLsbD c = false)) ∧
    ((∀ x y n, i ≠ .addReg x y ∧ i ≠ .sub x y ∧ i ≠ .subn x y ∧ i ≠ .shr x y ∧ i ≠ .shl x y ∧ i ≠ .drw x y n) →
      ¬ i.writes VF → t.reg VF = s.reg VF)

/-- R26: no completed step but one of Annn, Fx1E and Fx29 changes I.
Note: Rests on the spec's own decision D12 (log 5). -/
def Obligations.OnlyThreeInstructionsWriteI : Prop :=
  ∀ (i : Instr) (s t : State), s.fault.kind = .none → exec i s = .next t → t.fault.kind = .none →
    (∀ nnn, i ≠ .ldI nnn) → (∀ x, i ≠ .addI x) → (∀ x, i ≠ .ldF x) → t.i = s.i

/-- R27: no completed step but one of 2nnn changes a slot of the call stack (a pop leaves every slot as it is), and none but 2nnn and 00EE
changes SP. -/
def Obligations.OnlyCallAndReturnTouchTheStack : Prop :=
  ∀ (i : Instr) (s t : State), s.fault.kind = .none → exec i s = .next t → t.fault.kind = .none →
    ((∀ nnn, i ≠ .call nnn) → t.stack = s.stack) ∧ ((∀ nnn, i ≠ .call nnn) → i ≠ .ret → t.sp = s.sp)

/-- R91, R29, R30: neither timer changes in a step except by Fx15 (DT) and Fx18 (ST). -/
def Obligations.OnlyFx15AndFx18ChangeTimersInAStep : Prop :=
  ∀ (i : Instr) (s t : State), s.fault.kind = .none → exec i s = .next t → t.fault.kind = .none →
    ((∀ x, i ≠ .ldDTVx x) → t.dt = s.dt) ∧ ((∀ x, i ≠ .ldSTVx x) → t.st = s.st)

/-- R31: no completed step but one of 00E0 and Dxyn changes the display buffer. -/
def Obligations.OnlyClearAndDrawChangeTheDisplay : Prop :=
  ∀ (i : Instr) (s t : State), s.fault.kind = .none → exec i s = .next t → t.fault.kind = .none →
    i ≠ .cls → (∀ x y n, i ≠ .drw x y n) → t.disp = s.disp

/-- R51: a completed step changes no byte of memory outside the bytes it stores, which are `i.stores` bytes (3 for Fx33, x + 1 for Fx55,
none for any other instruction) from the effective address I + 0 on. -/
def Obligations.MemoryOutsideTheStoredBytesIsUnchanged : Prop :=
  ∀ (i : Instr) (s t : State), s.fault.kind = .none → s.mem.wf → exec i s = .next t → t.fault.kind = .none →
    ∀ a, a < s.effAddr 0 ∨ s.effAddr 0 + i.stores ≤ a → t.mem.read a = s.mem.read a

/-! ### Results: arithmetic and logic -/

/-- R101, R102: 6xnn loads nn; 7xnn adds modulo 256 and writes no flag; no other register changes, VF included (unless x = 0xF). -/
def Obligations.ImmediateLoadAndAdd : Prop :=
  ∀ (s : State) (x : Reg) (nn : Byte),
    (∃ v, exec (.ldImm x nn) s = .next { s.stepped (.ldImm x nn) with v := v } ∧
      v[x.val] = nn ∧ ∀ y : Reg, y ≠ x → v[y.val] = s.reg y) ∧
    (∃ v, exec (.addImm x nn) s = .next { s.stepped (.addImm x nn) with v := v } ∧
      (v[x.val]).toNat = ((s.reg x).toNat + nn.toNat) % 256 ∧ ∀ y : Reg, y ≠ x → v[y.val] = s.reg y)

/-- R104 to R107: assign, OR, AND, XOR to Vx, bit by bit; no other register changes, VF included (unless x = 0xF). -/
def Obligations.AssignAndLogic : Prop :=
  ∀ (s : State) (x y : Reg) (i : Instr) (f : Bool → Bool → Bool),
    (i = .ldReg x y ∧ f = fun _ b => b) ∨ (i = .orReg x y ∧ f = fun a b => a || b) ∨
    (i = .andReg x y ∧ f = fun a b => a && b) ∨ (i = .xorReg x y ∧ f = fun a b => a != b) →
    ∃ v, exec i s = .next { s.stepped i with v := v } ∧
      (∀ k < 8, (v[x.val]).getLsbD k = f ((s.reg x).getLsbD k) ((s.reg y).getLsbD k)) ∧
      ∀ z : Reg, z ≠ x → v[z.val] = s.reg z

/-- R108 (with R22): 8xy4 writes the sum modulo 256 to Vx, then the carry to VF, last; no other register and nothing else changes. -/
def Obligations.AddWithCarry : Prop :=
  ∀ (s : State) (x y : Reg), ∃ v, exec (.addReg x y) s = .next { s.stepped (.addReg x y) with v := v } ∧
    (v[VF.val]).toNat = (if (s.reg x).toNat + (s.reg y).toNat > 255 then 1 else 0) ∧
    (x ≠ VF → (v[x.val]).toNat = ((s.reg x).toNat + (s.reg y).toNat) % 256) ∧
    ∀ z : Reg, z ≠ x → z ≠ VF → v[z.val] = s.reg z

/-- R109, R111 (with R22): 8xy5 and 8xy7 write Vx - Vy and Vy - Vx modulo 256 to Vx, then VF = 1 where the minuend is strictly greater, else
0; nothing else changes.
Note: Rests on the spec's own decision D11 (log 5). -/
def Obligations.SubtractWithStrictNoBorrow : Prop :=
  ∀ (s : State) (x y : Reg),
    (∃ v, exec (.sub x y) s = .next { s.stepped (.sub x y) with v := v } ∧
      (v[VF.val]).toNat = (if (s.reg x).toNat > (s.reg y).toNat then 1 else 0) ∧
      (x ≠ VF → (v[x.val]).toNat = ((s.reg x).toNat + 256 - (s.reg y).toNat) % 256) ∧
      ∀ z : Reg, z ≠ x → z ≠ VF → v[z.val] = s.reg z) ∧
    (∃ v, exec (.subn x y) s = .next { s.stepped (.subn x y) with v := v } ∧
      (v[VF.val]).toNat = (if (s.reg y).toNat > (s.reg x).toNat then 1 else 0) ∧
      (x ≠ VF → (v[x.val]).toNat = ((s.reg y).toNat + 256 - (s.reg x).toNat) % 256) ∧
      ∀ z : Reg, z ≠ x → z ≠ VF → v[z.val] = s.reg z)

/-- R110, R112 (with R22): 8xy6 and 8xyE shift Vx by one, whatever y is, then VF = the bit shifted out of the old Vx; nothing else changes.
Note: Rests on the spec's own decisions D10, D29 (log 5). -/
def Obligations.ShiftsReadVxOnly : Prop :=
  ∀ (s : State) (x y : Reg),
    (∃ v, exec (.shr x y) s = .next { s.stepped (.shr x y) with v := v } ∧ (v[VF.val]).toNat = (s.reg x).toNat % 2 ∧
      (x ≠ VF → (v[x.val]).toNat = (s.reg x).toNat / 2) ∧ ∀ z : Reg, z ≠ x → z ≠ VF → v[z.val] = s.reg z) ∧
    (∃ v, exec (.shl x y) s = .next { s.stepped (.shl x y) with v := v } ∧ (v[VF.val]).toNat = (s.reg x).toNat / 128 ∧
      (x ≠ VF → (v[x.val]).toNat = (s.reg x).toNat * 2 % 256) ∧ ∀ z : Reg, z ≠ x → z ≠ VF → v[z.val] = s.reg z)

/-- R113 (with log 3): one draw per execution, also for nn = 0, and Vx takes it masked with nn, so a bit that is 0 in nn is 0 in the
result. It holds for whatever the draw is.
Note: Rests on the spec's own decision D17 (log 5); the draw is a free value applied to a counter in State, log 3. -/
def Obligations.RandomByteIsMasked : Prop :=
  ∀ (s : State) (x : Reg) (nn : Byte), ∃ v,
    exec (.rnd x nn) s = .next { s.stepped (.rnd x nn) with v := v, draws := s.draws + 1 } ∧
    v[x.val] = Config.randomByte s.draws &&& nn ∧ (∀ k < 8, nn.getLsbD k = false → (v[x.val]).getLsbD k = false) ∧
    ∀ z : Reg, z ≠ x → v[z.val] = s.reg z

/-! ### Results: control flow -/

/-- R94, R100: 1nnn goes to nnn, Bnnn to nnn + V0, not reduced modulo 4096; nothing else changes. -/
def Obligations.JumpsSetPC : Prop :=
  ∀ (s : State) (nnn : Addr),
    (∃ p : Word, exec (.jp nnn) s = .next { s.stepped (.jp nnn) with pc := p } ∧ p.toNat = nnn.toNat) ∧
    (∃ p : Word, exec (.jpV0 nnn) s = .next { s.stepped (.jpV0 nnn) with pc := p } ∧ p.toNat = nnn.toNat + (s.reg 0).toNat)

/-- R95: with room on the stack, 2nnn saves the address after it and goes to nnn; every other slot is as it was.
Note: The fault of a full stack is StackAndKeyFaultsAreRecorded. -/
def Obligations.CallPushesTheReturnAddress : Prop :=
  ∀ (s : State) (nnn : Addr), s.sp.val < 16 → ∃ (p : Word) (st : Vector Word 16) (n : Fin 17),
    exec (.call nnn) s = .next { s.stepped (.call nnn) with pc := p, stack := st, sp := n } ∧
    p.toNat = nnn.toNat ∧ n.val = s.sp.val + 1 ∧
    ∀ j : Fin 16, st[j.val] = if j.val = s.sp.val then s.pc + 2 else s.stack[j.val]

/-- R93: with an entry on the stack, 00EE takes the newest to PC and leaves every slot as it was.
Note: The fault of an empty stack is StackAndKeyFaultsAreRecorded. -/
def Obligations.ReturnPopsTheNewestAddress : Prop :=
  ∀ (s : State) (j : Fin 16), s.sp.val = j.val + 1 → ∃ n : Fin 17,
    exec .ret s = .next { s.stepped .ret with pc := s.stack[j.val], sp := n } ∧ n.val = j.val

/-- R93, R95 (source §8, stack round-trip): a 00EE on the state a 2nnn leaves, under any snapshot, resumes right after the call, with the
stack entries as they were. -/
def Obligations.ReturnAfterCallResumesAfterIt : Prop :=
  ∀ (s t : State) (nnn : Addr) (keys : Keys), s.sp.val < 16 → exec (.call nnn) s = .next t →
    ∃ u, exec .ret { t with keysIn := keys } = .next u ∧ u.fault = s.fault ∧ u.pc = s.pc + 2 ∧ u.sp = s.sp ∧
      ∀ j : Fin 16, j.val < s.sp.val → u.stack[j.val] = s.stack[j.val]

/-- R96 to R99: the skips on registers: PC passes one more word exactly when the condition holds, and nothing else changes. -/
def Obligations.RegisterSkips : Prop :=
  ∀ (s : State) (x y : Reg) (nn : Byte),
    (exec (.seImm x nn) s =
      .next { s.stepped (.seImm x nn) with pc := if (s.reg x).toNat = nn.toNat then s.pc + 4 else s.pc + 2 }) ∧
    (exec (.sneImm x nn) s =
      .next { s.stepped (.sneImm x nn) with pc := if (s.reg x).toNat = nn.toNat then s.pc + 2 else s.pc + 4 }) ∧
    (exec (.seReg x y) s =
      .next { s.stepped (.seReg x y) with pc := if (s.reg x).toNat = (s.reg y).toNat then s.pc + 4 else s.pc + 2 }) ∧
    (exec (.sneReg x y) s =
      .next { s.stepped (.sneReg x y) with pc := if (s.reg x).toNat = (s.reg y).toNat then s.pc + 2 else s.pc + 4 })

/-- R127, R129 (with R82, R128): with a key number below 16 in Vx, the key skips test this step's snapshot, and nothing else changes.
Note: The fault of a key number of 16 or more is StackAndKeyFaultsAreRecorded. -/
def Obligations.KeySkips : Prop :=
  ∀ (s : State) (x : Reg), (s.reg x).toNat < 16 →
    (exec (.skp x) s = .next { s.stepped (.skp x) with
      pc := if s.keysIn.getLsbD (s.reg x).toNat = true then s.pc + 4 else s.pc + 2 }) ∧
    (exec (.sknp x) s = .next { s.stepped (.sknp x) with
      pc := if s.keysIn.getLsbD (s.reg x).toNat = true then s.pc + 2 else s.pc + 4 })

/-- R90: an unrecognised word does nothing beyond the fetch. -/
def Obligations.UnrecognisedWordIsANoOp : Prop :=
  ∀ (s : State) (w : Word), exec (.unrecognised w) s =
    .next { s with k := s.keysIn, pc := s.pc + 2, lastOp := w, mode := .running, reply := .stepOk false (s.st == 1) }

/-! ### Results: index and memory -/

/-- R114, R115, R116: the three settings of I, unsigned and 16 bits wide, the glyph address not reduced; nothing else changes.
Note: Rests on the spec's own decision D13 (log 5). -/
def Obligations.IndexRegisterSettings : Prop :=
  ∀ (s : State) (x : Reg) (nnn : Addr),
    (∃ p : Word, exec (.ldI nnn) s = .next { s.stepped (.ldI nnn) with i := p } ∧ p.toNat = nnn.toNat) ∧
    (∃ p : Word, exec (.addI x) s = .next { s.stepped (.addI x) with i := p } ∧
      p.toNat = (s.i.toNat + (s.reg x).toNat) % 65536) ∧
    (∃ p : Word, exec (.ldF x) s = .next { s.stepped (.ldF x) with i := p } ∧ p.toNat = 0x050 + 5 * (s.reg x).toNat)

/-- R117: the three decimal digits of Vx at I, I + 1, I + 2, hundreds first; every other byte as before.
Note: The fault out of memory is MemoryFaultsReportTheLowestAddress. -/
def Obligations.DecimalDigitsAreStored : Prop :=
  ∀ (s : State) (x : Reg), s.mem.wf → s.i.toNat + 2 ≤ 0xFFF → ∃ m : Memory,
    exec (.ldB x) s = .next { s.stepped (.ldB x) with mem := m } ∧
    (m.read s.i.toNat).toNat = (s.reg x).toNat / 100 ∧
    (m.read (s.i.toNat + 1)).toNat = (s.reg x).toNat / 10 % 10 ∧
    (m.read (s.i.toNat + 2)).toNat = (s.reg x).toNat % 10 ∧
    ∀ a, a < s.effAddr 0 ∨ s.effAddr 0 + 3 ≤ a → m.read a = s.mem.read a

/-- R118: V0 to Vx at I to I + x, I unchanged; every other byte as before.
Note: Rests on the spec's own decision D12 (log 5). The fault out of memory is MemoryFaultsReportTheLowestAddress. -/
def Obligations.RegistersAreStored : Prop :=
  ∀ (s : State) (x : Reg), s.mem.wf → s.i.toNat + x.val ≤ 0xFFF → ∃ m : Memory,
    exec (.ldStore x) s = .next { s.stepped (.ldStore x) with mem := m } ∧
    (∀ y : Reg, y.val ≤ x.val → m.read (s.i.toNat + y.val) = s.reg y) ∧
    ∀ a, a < s.effAddr 0 ∨ s.effAddr 0 + (x.val + 1) ≤ a → m.read a = s.mem.read a

/-- R119: V0 to Vx from I to I + x, I and every other register unchanged.
Note: Rests on the spec's own decision D12 (log 5). The fault out of memory is MemoryFaultsReportTheLowestAddress. -/
def Obligations.RegistersAreLoaded : Prop :=
  ∀ (s : State) (x : Reg), s.i.toNat + x.val ≤ 0xFFF → ∃ v,
    exec (.ldLoad x) s = .next { s.stepped (.ldLoad x) with v := v } ∧
    (∀ y : Reg, y.val ≤ x.val → v[y.val] = s.mem.read (s.i.toNat + y.val)) ∧
    ∀ y : Reg, x.val < y.val → v[y.val] = s.reg y

/-- R118, R119: what Fx55 stored, Fx65 with the same I and x loads back, whatever the registers hold by then.
Note: Rests on the spec's own decision D12 (log 5). -/
def Obligations.LoadRestoresStoredRegisters : Prop :=
  ∀ (s t u : State) (x : Reg), s.mem.wf → s.i.toNat + x.val ≤ 0xFFF → exec (.ldStore x) s = .next t →
    u.mem = t.mem → u.i = s.i → ∃ r, exec (.ldLoad x) u = .next r ∧ r.fault = u.fault ∧
      ∀ y : Reg, r.reg y = if y.val ≤ x.val then s.reg y else u.reg y

/-- R63, R118, R57: a word whose two bytes Fx55 has stored is the word a later fetch at that address reads.
Note: Rests on the spec's own decision D26 (log 5). -/
def Obligations.StoredWordIsFetched : Prop :=
  ∀ (s t : State) (x y z : Reg), s.mem.wf → s.i.toNat + x.val ≤ 0xFFF → z.val = y.val + 1 → z.val ≤ x.val →
    exec (.ldStore x) s = .next t → ∃ w, t.fetch16 (s.i.toNat + y.val) = .ok w ∧
      w.toNat = (s.reg y).toNat * 256 + (s.reg z).toNat

/-! ### Results: display, keys and timers -/

/-- R123, R121: 00E0 clears all 2048 cells and changes nothing else; the step reports a dirty display.
Note: That the display is reported dirty rests on the spec's own decision D15 (log 5); that the outputs stand in State is log 6. -/
def Obligations.ClearScreen : Prop :=
  ∀ s : State, ∃ d, exec .cls s = .next { s.stepped .cls with disp := d } ∧ ∀ c < 2048, d.getLsbD c = false

/-- R124, R125, R126: Dxyn inverts exactly the cells under the set bits of the n bytes from I on, placed linearly modulo 2048 from
(Vx mod 64, Vy mod 32), and VF is 1 exactly when one of them was set; with n = 0 nothing is drawn and VF is 0. No other register
and nothing else changes.
Note: Rests on the spec's own decisions D14, D30 (log 5). -/
def Obligations.DrawInvertsExactlyTheSpriteCells : Prop :=
  ∀ (s : State) (x y : Reg) (n : Fin 16) (rows : List Byte),
    (n.val = 0 ∨ s.i.toNat + n.val - 1 ≤ 0xFFF) → rows = (List.range n.val).map (fun k => s.mem.read (s.i.toNat + k)) →
    ∃ d v, exec (.drw x y n) s = .next { s.stepped (.drw x y n) with disp := d, v := v } ∧
      (∀ c < 2048, d.getLsbD c ≠ s.disp.getLsbD c ↔ covered ((s.reg x).toNat % 64) ((s.reg y).toNat % 32) rows c) ∧
      ((v[VF.val]).toNat = 0 ∨ (v[VF.val]).toNat = 1) ∧
      ((v[VF.val]).toNat = 1 ↔
        ∃ c < 2048, s.disp.getLsbD c = true ∧ covered ((s.reg x).toNat % 64) ((s.reg y).toNat % 32) rows c) ∧
      ∀ z : Reg, z ≠ VF → v[z.val] = s.reg z

/-- R124 (source §8): the same sprite drawn again at the same place takes back every cell of the first drawing, and the second VF is 1
where a bit of the sprite is set and the buffer was empty.
Note: Rests on the spec's own decision D30 (log 5). -/
def Obligations.DrawingTwiceRestoresTheDisplay : Prop :=
  ∀ (s t : State) (x y : Reg) (n : Fin 16), x ≠ VF → y ≠ VF → (n.val = 0 ∨ s.i.toNat + n.val - 1 ≤ 0xFFF) →
    exec (.drw x y n) s = .next t → ∃ u, exec (.drw x y n) t = .next u ∧ u.fault = s.fault ∧ u.disp = s.disp ∧
      ((∀ c < 2048, s.disp.getLsbD c = false) → (t.reg VF).toNat = 0 ∧
        ((u.reg VF).toNat = 1 ↔ ∃ k < n.val, s.mem.read (s.i.toNat + k) ≠ 0))

/-- R130, R87: Fx0A with no key in this step's snapshot stays at its own word and waits; with keys pressed Vx takes the least one and
PC passes the word. Nothing else changes. -/
def Obligations.WaitForKeyTakesTheLeastKey : Prop :=
  ∀ (s : State) (x : Reg),
    ((∀ k < 16, s.keysIn.getLsbD k = false) →
      exec (.ldVxK x) s = .next { s.stepped (.ldVxK x) with pc := s.pc, mode := .awaitingKey }) ∧
    (∀ k < 16, s.keysIn.getLsbD k = true → (∀ j < k, s.keysIn.getLsbD j = false) →
      ∃ v, exec (.ldVxK x) s = .next { s.stepped (.ldVxK x) with v := v } ∧ (v[x.val]).toNat = k ∧
        ∀ y : Reg, y ≠ x → v[y.val] = s.reg y)

/-- R131, R132, R133 (with R86): Fx07 reads DT, Fx15 sets DT, Fx18 sets ST with the tone of the new ST as output; nothing else
changes.
Note: The tone output rests on the spec's own decision D16 (log 5). -/
def Obligations.TimerInstructions : Prop :=
  ∀ (s : State) (x : Reg),
    (∃ v, exec (.ldVxDT x) s = .next { s.stepped (.ldVxDT x) with v := v } ∧ v[x.val] = s.dt ∧
      ∀ y : Reg, y ≠ x → v[y.val] = s.reg y) ∧
    exec (.ldDTVx x) s = .next { s.stepped (.ldDTVx x) with dt := s.reg x } ∧
    exec (.ldSTVx x) s = .next { s.stepped (.ldSTVx x) with
      st := s.reg x, reply := .stepOk false (decide ((s.reg x).toNat = 1)) }

/-! ### The machine as a whole -/

/-- R150: a step of a parked machine (no fault, loaded, a jump to itself at PC) leaves it parked, with V, I, SP, STACK, DISP, MEM and PC
unchanged.
Note: Rests on the spec's own decision D28 (log 5). -/
def Obligations.ParkedMachineStaysParked : Prop :=
  ∀ s : State, s.safe → s.loaded = true → s.parked → ∃ t, coreStep s = .next t ∧ t.safe ∧ t.parked ∧
    t.v = s.v ∧ t.i = s.i ∧ t.sp = s.sp ∧ t.stack = s.stack ∧ t.disp = s.disp ∧ t.mem = s.mem ∧ t.pc = s.pc

/-- R25, R28, R33, R35, R50, R143, R151: every step, whatever the host's request, keeps the invariant of the machine (`State.Inv`).
Note: The invariant is read from rules the spec marks as derived or decided (R25, R28, D7, D20); the canonical form of memory is log 15. -/
def Obligations.EveryStepKeepsTheInvariant : Prop :=
  ∀ s t : State, s.Inv → step s = .next t → t.Inv

/-- The state after reset has the invariant.
Note: The reset values are the spec's own decision D2 (log 5). -/
def Obligations.ResetHasTheInvariant : Prop :=
  State.reset.Inv
end

