-- ==== Sys2Proof/Laws/Memory.lean ====
section
/-! SUPPORT. The laws of memory: a read after a write, the canonical form, and what the access primitives can answer (R56, R57,
R140). -/

namespace Sys2Proof.Machine

/-! ### The list of cells -/

theorem lookupCell_erase {a c : Nat} {cs : List Host.Cell} (h : cs.Pairwise (fun p q => p.1 < q.1)) :
    lookupCell c (eraseCell a cs) = if c = a then none else lookupCell c cs := by
  induction cs with
  | nil => simp [eraseCell, lookupCell]
  | cons p cs ih =>
    have hp := List.pairwise_cons.mp h
    have none_below : ∀ (l : List Host.Cell), (∀ q ∈ l, p.1 < q.1) → lookupCell p.1 l = none := by
      intro l hl
      induction l with
      | nil => rfl
      | cons q l ihl =>
        have hq : p.1 < q.1 := hl q (by simp)
        simp only [lookupCell]
        rw [if_neg (by omega)]
        exact ihl fun r hr => hl r (by simp [hr])
    by_cases hpa : p.1 = a
    · subst hpa
      by_cases hc : c = p.1
      · subst hc; simp [eraseCell, none_below cs hp.1]
      · simp [eraseCell, lookupCell, hc, Ne.symm hc]
    · by_cases hpc : p.1 = c
      · subst hpc; simp [eraseCell, lookupCell, hpa]
      · simp [eraseCell, lookupCell, hpa, hpc, ih hp.2]

theorem lookupCell_insert (a c : Nat) (b : Byte) (cs : List Host.Cell) :
    lookupCell c (insertCell a b cs) = if c = a then some b else lookupCell c cs := by
  induction cs with
  | nil => simp [insertCell, lookupCell, eq_comm]
  | cons p cs ih =>
    unfold insertCell
    split_ifs <;> (simp only [lookupCell, ih]; split_ifs <;> first | rfl | omega)

theorem mem_eraseCell {a : Nat} {q : Host.Cell} {cs : List Host.Cell} (h : q ∈ eraseCell a cs) : q ∈ cs := by
  induction cs with
  | nil => exact h
  | cons p cs ih =>
    simp only [eraseCell] at h
    split at h
    · exact List.mem_cons_of_mem _ h
    · rcases List.mem_cons.mp h with rfl | h
      · simp
      · exact List.mem_cons_of_mem _ (ih h)

theorem mem_insertCell {a : Nat} {b : Byte} {q : Host.Cell} {cs : List Host.Cell} (h : q ∈ insertCell a b cs) :
    q = (a, b) ∨ q ∈ cs := by
  induction cs with
  | nil => simpa [insertCell] using h
  | cons p cs ih =>
    simp only [insertCell] at h
    split_ifs at h
    · simpa using h
    · rcases List.mem_cons.mp h with h | h
      · exact .inl h
      · exact .inr (List.mem_cons_of_mem _ h)
    · rcases List.mem_cons.mp h with rfl | h
      · simp
      · exact (ih h).imp_right (List.mem_cons_of_mem _)

theorem pairwise_eraseCell {a : Nat} {cs : List Host.Cell} (h : cs.Pairwise (fun p q => p.1 < q.1)) :
    (eraseCell a cs).Pairwise (fun p q => p.1 < q.1) := by
  induction cs with
  | nil => exact h
  | cons p cs ih =>
    have hp := List.pairwise_cons.mp h
    simp only [eraseCell]
    split
    · exact hp.2
    · exact List.pairwise_cons.mpr ⟨fun q hq => hp.1 q (mem_eraseCell hq), ih hp.2⟩

theorem pairwise_insertCell {a : Nat} {b : Byte} {cs : List Host.Cell} (h : cs.Pairwise (fun p q => p.1 < q.1)) :
    (insertCell a b cs).Pairwise (fun p q => p.1 < q.1) := by
  induction cs with
  | nil => simp [insertCell]
  | cons p cs ih =>
    have hp := List.pairwise_cons.mp h
    simp only [insertCell]
    split_ifs with h1 h2
    · refine List.pairwise_cons.mpr ⟨fun q hq => ?_, h⟩
      rcases List.mem_cons.mp hq with rfl | hq
      · exact h1
      · exact h1.trans (hp.1 q hq)
    · subst h2; exact List.pairwise_cons.mpr ⟨hp.1, hp.2⟩
    · refine List.pairwise_cons.mpr ⟨fun q hq => ?_, ih hp.2⟩
      rcases mem_insertCell hq with rfl | hq
      · simp only; omega
      · exact hp.1 q hq

/-! ### Reading after writing -/

@[simp] theorem Memory.font_write (m : Memory) (a : Nat) (b : Byte) : (m.write a b).font = m.font := rfl

/-- The two laws of memory at once: a write gives its address the byte and leaves every other address alone. -/
theorem Memory.read_write {m : Memory} (h : m.wf) (a c : Nat) (b : Byte) :
    (m.write a b).read c = if c = a then b else m.read c := by
  by_cases hb : b = resetByte m.font a
  · by_cases hc : c = a
    · subst hc; simp [Memory.read, Memory.write, hb, lookupCell_erase h.1]
    · simp [Memory.read, Memory.write, hb, lookupCell_erase h.1, hc]
  · by_cases hc : c = a
    · subst hc; simp [Memory.read, Memory.write, hb, lookupCell_insert]
    · simp [Memory.read, Memory.write, hb, lookupCell_insert, hc]

/-- A write inside the address space keeps the canonical form. -/
theorem Memory.wf_write {m : Memory} (h : m.wf) {a : Nat} (ha : a < Config.memSize) (b : Byte) : (m.write a b).wf := by
  by_cases hb : b = resetByte m.font a
  · simp only [Memory.write, Memory.wf, hb, if_true]
    exact ⟨pairwise_eraseCell h.1, fun c hc => h.2 c (mem_eraseCell hc)⟩
  · simp only [Memory.write, Memory.wf, hb, if_false]
    refine ⟨pairwise_insertCell h.1, fun c hc => ?_⟩
    rcases mem_insertCell hc with rfl | hc
    · exact ⟨ha, hb⟩
    · exact h.2 c hc

/-- A memory with no listed entry is canonical and reads as after construction (R50, R153). -/
theorem Memory.wf_empty (font : Font) : (Memory.mk font []).wf := by simp [Memory.wf]

theorem Memory.read_empty (font : Font) (a : Nat) : (Memory.mk font []).read a = resetByte font a := rfl

/-- The font bytes stand at 0x050 to 0x09F (R153). -/
theorem resetByte_font (font : Font) (g : Fin 80) : resetByte font (0x050 + g.val) = font[g.val] := by
  simp only [resetByte, Config.fontBase, Config.fontSize]
  rw [dif_pos (by omega)]; simp

/-- Every other address holds 0x00 (R50). -/
theorem resetByte_zero (font : Font) {a : Nat} (h : a < 0x050 ∨ 0x0A0 ≤ a) : resetByte font a = 0 := by
  simp only [resetByte, Config.fontBase, Config.fontSize]
  rw [dif_neg (by omega)]

/-! ### Several bytes -/

@[simp] theorem Memory.font_writeAll (m : Memory) (a : Nat) (bs : List Byte) : (m.writeAll a bs).font = m.font := by
  induction bs generalizing m a with
  | nil => rfl
  | cons b bs ih => simp [Memory.writeAll, ih]

theorem Memory.wf_writeAll {m : Memory} (h : m.wf) {a : Nat} {bs : List Byte} (ha : a + bs.length ≤ Config.memSize) :
    (m.writeAll a bs).wf := by
  induction bs generalizing m a with
  | nil => exact h
  | cons b bs ih =>
    simp only [List.length_cons, Config.memSize] at ha
    exact ih (Memory.wf_write h (by simp only [Config.memSize]; omega) b) (by simp only [Config.memSize]; omega)

/-- A row of bytes stored from a on: the j-th at a + j, every address outside the row as before. -/
theorem Memory.read_writeAll {m : Memory} (h : m.wf) {a : Nat} {bs : List Byte} (ha : a + bs.length ≤ Config.memSize) (c : Nat) :
    (m.writeAll a bs).read c = if hc : a ≤ c ∧ c < a + bs.length then bs[c - a]'(by omega) else m.read c := by
  induction bs generalizing m a with
  | nil => simp only [Memory.writeAll, List.length_nil]; rw [dif_neg (by omega)]
  | cons b bs ih =>
    simp only [List.length_cons, Config.memSize] at ha
    have hw := Memory.wf_write h (a := a) (by simp only [Config.memSize]; omega) b
    simp only [Memory.writeAll, List.length_cons]
    rw [ih hw (by simp only [Config.memSize]; omega), Memory.read_write h]
    by_cases hca : c = a
    · subst hca; rw [dif_neg (by omega), dif_pos (by omega)]; simp
    · by_cases hin : a + 1 ≤ c ∧ c < a + 1 + bs.length
      · rw [dif_pos hin, dif_pos (by omega)]
        obtain ⟨k, rfl⟩ : ∃ k, c = a + 1 + k := ⟨c - (a + 1), by omega⟩
        have e1 : a + 1 + k - (a + 1) = k := by omega
        have e2 : a + 1 + k - a = k + 1 := by omega
        simp only [e1, e2, List.getElem_cons_succ]
      · rw [dif_neg hin, dif_neg (by omega), if_neg hca]

/-! ### What the access primitives answer (R56, R57, R140) -/

theorem State.memRead_ok (s : State) {a : Nat} (h : a ≤ 0xFFF) : s.memRead a = .ok (s.mem.read a) := by
  simp [State.memRead, Nat.not_lt.mpr h]

theorem State.memRead_error (s : State) {a : Nat} (h : 0xFFF < a) : s.memRead a = .error (.memoryOutOfBounds .read a) := by
  simp [State.memRead, h]

/-- n reads inside memory give the n bytes in order. -/
theorem State.memReads_ok (s : State) {a n : Nat} (h : a + n ≤ 0x1000) :
    s.memReads a n = .ok ((List.range n).map (fun k => s.mem.read (a + k))) := by
  induction n generalizing a with
  | zero => rfl
  | succ n ih =>
    simp only [State.memReads, State.memRead_ok s (show a ≤ 0xFFF by omega), ih (show a + 1 + n ≤ 0x1000 by omega)]
    rw [List.range_succ_eq_map]
    simp [Nat.add_assoc, Nat.add_comm 1]

/-- Reads that leave memory raise the fault at the first address above 0xFFF (R140). -/
theorem State.memReads_error (s : State) {a n : Nat} (hn : 0 < n) (h : 0x1000 < a + n) :
    s.memReads a n = .error (.memoryOutOfBounds .read (max a 0x1000)) := by
  induction n generalizing a with
  | zero => omega
  | succ n ih =>
    by_cases ha : a ≤ 0xFFF
    · have hn' : 0 < n := by omega
      simp only [State.memReads, State.memRead_ok s ha, ih (a := a + 1) hn' (by omega)]
      congr 2; omega
    · simp only [State.memReads, State.memRead_error s (Nat.not_le.mp ha)]
      congr 2; omega

/-- Stores inside memory: the bytes in order, nothing else of the state. -/
theorem State.memWrites_ok (s : State) {a : Nat} {bs : List Byte} (h : a + bs.length ≤ 0x1000) :
    s.memWrites a bs = .ok { s with mem := s.mem.writeAll a bs } := by
  induction bs generalizing s a with
  | nil => rfl
  | cons b bs ih =>
    simp only [List.length_cons] at h
    have ha : ¬ a > 0xFFF := by omega
    simp only [State.memWrites, State.memWrite, if_neg ha]
    rw [ih _ (by omega)]; rfl

/-- Stores that leave memory raise the fault at the first address above 0xFFF (R140). -/
theorem State.memWrites_error (s : State) {a : Nat} {bs : List Byte} (hb : bs ≠ []) (h : 0x1000 < a + bs.length) :
    s.memWrites a bs = .error (.memoryOutOfBounds .write (max a 0x1000)) := by
  induction bs generalizing s a with
  | nil => exact absurd rfl hb
  | cons b bs ih =>
    simp only [List.length_cons] at h
    by_cases ha : a > 0xFFF
    · simp only [State.memWrites, State.memWrite, if_pos ha]
      congr 2; omega
    · have hbs : bs ≠ [] := by rintro rfl; simp at h; omega
      simp only [State.memWrites, State.memWrite, if_neg ha]
      rw [ih _ hbs (by omega)]
      congr 2; omega

/-- A fetch inside memory gives the word, high byte first (R54, R57). -/
theorem State.fetch16_ok (s : State) {a : Nat} (h : a ≤ 0xFFE) :
    s.fetch16 a = .ok (wordOfBytes (s.mem.read a) (s.mem.read (a + 1))) := by
  unfold State.fetch16
  rw [if_neg (by omega), if_neg (by omega)]

/-- A fetch that leaves memory raises the fault at its first address above 0xFFF (R57). -/
theorem State.fetch16_error (s : State) {a : Nat} (h : 0xFFE < a) :
    s.fetch16 a = .error (.memoryOutOfBounds .fetch (max a 0x1000)) := by
  unfold State.fetch16
  by_cases ha : a > 0xFFF
  · rw [if_pos ha]; congr 2; omega
  · rw [if_neg ha, if_pos (by omega)]; congr 2; omega

/-- A fetch answers a word exactly at an address up to 0xFFE, and the word is then the two bytes there. -/
theorem State.fetch16_eq_ok {s : State} {a : Nat} {w : Word} (h : s.fetch16 a = .ok w) :
    a ≤ 0xFFE ∧ w = wordOfBytes (s.mem.read a) (s.mem.read (a + 1)) := by
  by_cases ha : a ≤ 0xFFE
  · rw [State.fetch16_ok s ha] at h; exact ⟨ha, by injection h with h; exact h.symm⟩
  · rw [State.fetch16_error s (by omega)] at h; cases h

end Sys2Proof.Machine
end

