-- ==== Sys2Proof/Laws/State.lean ====
section
/-! SUPPORT. One lemma per field per named update of the state: what the update gives the field, or that it leaves it. -/

namespace Sys2Proof.Machine

variable (s : State)

/-! ### setReg -/

@[simp] theorem State.setReg_v (x : Reg) (b : Byte) : (s.setReg x b).v = s.v.set x.val b := rfl
@[simp] theorem State.setReg_pc (x : Reg) (b : Byte) : (s.setReg x b).pc = s.pc := rfl
@[simp] theorem State.setReg_i (x : Reg) (b : Byte) : (s.setReg x b).i = s.i := rfl
@[simp] theorem State.setReg_sp (x : Reg) (b : Byte) : (s.setReg x b).sp = s.sp := rfl
@[simp] theorem State.setReg_stack (x : Reg) (b : Byte) : (s.setReg x b).stack = s.stack := rfl
@[simp] theorem State.setReg_dt (x : Reg) (b : Byte) : (s.setReg x b).dt = s.dt := rfl
@[simp] theorem State.setReg_st (x : Reg) (b : Byte) : (s.setReg x b).st = s.st := rfl
@[simp] theorem State.setReg_disp (x : Reg) (b : Byte) : (s.setReg x b).disp = s.disp := rfl
@[simp] theorem State.setReg_k (x : Reg) (b : Byte) : (s.setReg x b).k = s.k := rfl
@[simp] theorem State.setReg_mode (x : Reg) (b : Byte) : (s.setReg x b).mode = s.mode := rfl
@[simp] theorem State.setReg_lastOp (x : Reg) (b : Byte) : (s.setReg x b).lastOp = s.lastOp := rfl
@[simp] theorem State.setReg_fault (x : Reg) (b : Byte) : (s.setReg x b).fault = s.fault := rfl
@[simp] theorem State.setReg_loaded (x : Reg) (b : Byte) : (s.setReg x b).loaded = s.loaded := rfl
@[simp] theorem State.setReg_mem (x : Reg) (b : Byte) : (s.setReg x b).mem = s.mem := rfl
@[simp] theorem State.setReg_keysIn (x : Reg) (b : Byte) : (s.setReg x b).keysIn = s.keysIn := rfl
@[simp] theorem State.setReg_inbox (x : Reg) (b : Byte) : (s.setReg x b).inbox = s.inbox := rfl
@[simp] theorem State.setReg_schedule (x : Reg) (b : Byte) : (s.setReg x b).schedule = s.schedule := rfl
@[simp] theorem State.setReg_reply (x : Reg) (b : Byte) : (s.setReg x b).reply = s.reply := rfl
@[simp] theorem State.setReg_draws (x : Reg) (b : Byte) : (s.setReg x b).draws = s.draws := rfl

/-! ### setRegs -/

@[simp] theorem State.setRegs_v (bs : List Byte) : (s.setRegs bs).v = setFrom s.v 0 bs := rfl
@[simp] theorem State.setRegs_pc (bs : List Byte) : (s.setRegs bs).pc = s.pc := rfl
@[simp] theorem State.setRegs_i (bs : List Byte) : (s.setRegs bs).i = s.i := rfl
@[simp] theorem State.setRegs_sp (bs : List Byte) : (s.setRegs bs).sp = s.sp := rfl
@[simp] theorem State.setRegs_stack (bs : List Byte) : (s.setRegs bs).stack = s.stack := rfl
@[simp] theorem State.setRegs_dt (bs : List Byte) : (s.setRegs bs).dt = s.dt := rfl
@[simp] theorem State.setRegs_st (bs : List Byte) : (s.setRegs bs).st = s.st := rfl
@[simp] theorem State.setRegs_disp (bs : List Byte) : (s.setRegs bs).disp = s.disp := rfl
@[simp] theorem State.setRegs_k (bs : List Byte) : (s.setRegs bs).k = s.k := rfl
@[simp] theorem State.setRegs_mode (bs : List Byte) : (s.setRegs bs).mode = s.mode := rfl
@[simp] theorem State.setRegs_lastOp (bs : List Byte) : (s.setRegs bs).lastOp = s.lastOp := rfl
@[simp] theorem State.setRegs_fault (bs : List Byte) : (s.setRegs bs).fault = s.fault := rfl
@[simp] theorem State.setRegs_loaded (bs : List Byte) : (s.setRegs bs).loaded = s.loaded := rfl
@[simp] theorem State.setRegs_mem (bs : List Byte) : (s.setRegs bs).mem = s.mem := rfl
@[simp] theorem State.setRegs_keysIn (bs : List Byte) : (s.setRegs bs).keysIn = s.keysIn := rfl
@[simp] theorem State.setRegs_inbox (bs : List Byte) : (s.setRegs bs).inbox = s.inbox := rfl
@[simp] theorem State.setRegs_schedule (bs : List Byte) : (s.setRegs bs).schedule = s.schedule := rfl
@[simp] theorem State.setRegs_reply (bs : List Byte) : (s.setRegs bs).reply = s.reply := rfl
@[simp] theorem State.setRegs_draws (bs : List Byte) : (s.setRegs bs).draws = s.draws := rfl

/-! ### setRegFlag -/

@[simp] theorem State.setRegFlag_pc (x : Reg) (b : Byte) (c : Bool) : (s.setRegFlag x b c).pc = s.pc := rfl
@[simp] theorem State.setRegFlag_i (x : Reg) (b : Byte) (c : Bool) : (s.setRegFlag x b c).i = s.i := rfl
@[simp] theorem State.setRegFlag_sp (x : Reg) (b : Byte) (c : Bool) : (s.setRegFlag x b c).sp = s.sp := rfl
@[simp] theorem State.setRegFlag_stack (x : Reg) (b : Byte) (c : Bool) : (s.setRegFlag x b c).stack = s.stack := rfl
@[simp] theorem State.setRegFlag_dt (x : Reg) (b : Byte) (c : Bool) : (s.setRegFlag x b c).dt = s.dt := rfl
@[simp] theorem State.setRegFlag_st (x : Reg) (b : Byte) (c : Bool) : (s.setRegFlag x b c).st = s.st := rfl
@[simp] theorem State.setRegFlag_disp (x : Reg) (b : Byte) (c : Bool) : (s.setRegFlag x b c).disp = s.disp := rfl
@[simp] theorem State.setRegFlag_k (x : Reg) (b : Byte) (c : Bool) : (s.setRegFlag x b c).k = s.k := rfl
@[simp] theorem State.setRegFlag_mode (x : Reg) (b : Byte) (c : Bool) : (s.setRegFlag x b c).mode = s.mode := rfl
@[simp] theorem State.setRegFlag_lastOp (x : Reg) (b : Byte) (c : Bool) : (s.setRegFlag x b c).lastOp = s.lastOp := rfl
@[simp] theorem State.setRegFlag_fault (x : Reg) (b : Byte) (c : Bool) : (s.setRegFlag x b c).fault = s.fault := rfl
@[simp] theorem State.setRegFlag_loaded (x : Reg) (b : Byte) (c : Bool) : (s.setRegFlag x b c).loaded = s.loaded := rfl
@[simp] theorem State.setRegFlag_mem (x : Reg) (b : Byte) (c : Bool) : (s.setRegFlag x b c).mem = s.mem := rfl
@[simp] theorem State.setRegFlag_keysIn (x : Reg) (b : Byte) (c : Bool) : (s.setRegFlag x b c).keysIn = s.keysIn := rfl
@[simp] theorem State.setRegFlag_inbox (x : Reg) (b : Byte) (c : Bool) : (s.setRegFlag x b c).inbox = s.inbox := rfl
@[simp] theorem State.setRegFlag_schedule (x : Reg) (b : Byte) (c : Bool) : (s.setRegFlag x b c).schedule = s.schedule := rfl
@[simp] theorem State.setRegFlag_reply (x : Reg) (b : Byte) (c : Bool) : (s.setRegFlag x b c).reply = s.reply := rfl
@[simp] theorem State.setRegFlag_draws (x : Reg) (b : Byte) (c : Bool) : (s.setRegFlag x b c).draws = s.draws := rfl

/-! ### jump -/

@[simp] theorem State.jump_v (w : Word) : (s.jump w).v = s.v := rfl
@[simp] theorem State.jump_pc (w : Word) : (s.jump w).pc = w := rfl
@[simp] theorem State.jump_i (w : Word) : (s.jump w).i = s.i := rfl
@[simp] theorem State.jump_sp (w : Word) : (s.jump w).sp = s.sp := rfl
@[simp] theorem State.jump_stack (w : Word) : (s.jump w).stack = s.stack := rfl
@[simp] theorem State.jump_dt (w : Word) : (s.jump w).dt = s.dt := rfl
@[simp] theorem State.jump_st (w : Word) : (s.jump w).st = s.st := rfl
@[simp] theorem State.jump_disp (w : Word) : (s.jump w).disp = s.disp := rfl
@[simp] theorem State.jump_k (w : Word) : (s.jump w).k = s.k := rfl
@[simp] theorem State.jump_mode (w : Word) : (s.jump w).mode = s.mode := rfl
@[simp] theorem State.jump_lastOp (w : Word) : (s.jump w).lastOp = s.lastOp := rfl
@[simp] theorem State.jump_fault (w : Word) : (s.jump w).fault = s.fault := rfl
@[simp] theorem State.jump_loaded (w : Word) : (s.jump w).loaded = s.loaded := rfl
@[simp] theorem State.jump_mem (w : Word) : (s.jump w).mem = s.mem := rfl
@[simp] theorem State.jump_keysIn (w : Word) : (s.jump w).keysIn = s.keysIn := rfl
@[simp] theorem State.jump_inbox (w : Word) : (s.jump w).inbox = s.inbox := rfl
@[simp] theorem State.jump_schedule (w : Word) : (s.jump w).schedule = s.schedule := rfl
@[simp] theorem State.jump_reply (w : Word) : (s.jump w).reply = s.reply := rfl
@[simp] theorem State.jump_draws (w : Word) : (s.jump w).draws = s.draws := rfl

/-! ### skipIf -/

@[simp] theorem State.skipIf_v (c : Bool) : (s.skipIf c).v = s.v := rfl
@[simp] theorem State.skipIf_pc (c : Bool) : (s.skipIf c).pc = if c then s.pc + 2 else s.pc := rfl
@[simp] theorem State.skipIf_i (c : Bool) : (s.skipIf c).i = s.i := rfl
@[simp] theorem State.skipIf_sp (c : Bool) : (s.skipIf c).sp = s.sp := rfl
@[simp] theorem State.skipIf_stack (c : Bool) : (s.skipIf c).stack = s.stack := rfl
@[simp] theorem State.skipIf_dt (c : Bool) : (s.skipIf c).dt = s.dt := rfl
@[simp] theorem State.skipIf_st (c : Bool) : (s.skipIf c).st = s.st := rfl
@[simp] theorem State.skipIf_disp (c : Bool) : (s.skipIf c).disp = s.disp := rfl
@[simp] theorem State.skipIf_k (c : Bool) : (s.skipIf c).k = s.k := rfl
@[simp] theorem State.skipIf_mode (c : Bool) : (s.skipIf c).mode = s.mode := rfl
@[simp] theorem State.skipIf_lastOp (c : Bool) : (s.skipIf c).lastOp = s.lastOp := rfl
@[simp] theorem State.skipIf_fault (c : Bool) : (s.skipIf c).fault = s.fault := rfl
@[simp] theorem State.skipIf_loaded (c : Bool) : (s.skipIf c).loaded = s.loaded := rfl
@[simp] theorem State.skipIf_mem (c : Bool) : (s.skipIf c).mem = s.mem := rfl
@[simp] theorem State.skipIf_keysIn (c : Bool) : (s.skipIf c).keysIn = s.keysIn := rfl
@[simp] theorem State.skipIf_inbox (c : Bool) : (s.skipIf c).inbox = s.inbox := rfl
@[simp] theorem State.skipIf_schedule (c : Bool) : (s.skipIf c).schedule = s.schedule := rfl
@[simp] theorem State.skipIf_reply (c : Bool) : (s.skipIf c).reply = s.reply := rfl
@[simp] theorem State.skipIf_draws (c : Bool) : (s.skipIf c).draws = s.draws := rfl

/-! ### setI -/

@[simp] theorem State.setI_v (w : Word) : (s.setI w).v = s.v := rfl
@[simp] theorem State.setI_pc (w : Word) : (s.setI w).pc = s.pc := rfl
@[simp] theorem State.setI_i (w : Word) : (s.setI w).i = w := rfl
@[simp] theorem State.setI_sp (w : Word) : (s.setI w).sp = s.sp := rfl
@[simp] theorem State.setI_stack (w : Word) : (s.setI w).stack = s.stack := rfl
@[simp] theorem State.setI_dt (w : Word) : (s.setI w).dt = s.dt := rfl
@[simp] theorem State.setI_st (w : Word) : (s.setI w).st = s.st := rfl
@[simp] theorem State.setI_disp (w : Word) : (s.setI w).disp = s.disp := rfl
@[simp] theorem State.setI_k (w : Word) : (s.setI w).k = s.k := rfl
@[simp] theorem State.setI_mode (w : Word) : (s.setI w).mode = s.mode := rfl
@[simp] theorem State.setI_lastOp (w : Word) : (s.setI w).lastOp = s.lastOp := rfl
@[simp] theorem State.setI_fault (w : Word) : (s.setI w).fault = s.fault := rfl
@[simp] theorem State.setI_loaded (w : Word) : (s.setI w).loaded = s.loaded := rfl
@[simp] theorem State.setI_mem (w : Word) : (s.setI w).mem = s.mem := rfl
@[simp] theorem State.setI_keysIn (w : Word) : (s.setI w).keysIn = s.keysIn := rfl
@[simp] theorem State.setI_inbox (w : Word) : (s.setI w).inbox = s.inbox := rfl
@[simp] theorem State.setI_schedule (w : Word) : (s.setI w).schedule = s.schedule := rfl
@[simp] theorem State.setI_reply (w : Word) : (s.setI w).reply = s.reply := rfl
@[simp] theorem State.setI_draws (w : Word) : (s.setI w).draws = s.draws := rfl

/-! ### setDT -/

@[simp] theorem State.setDT_v (b : Byte) : (s.setDT b).v = s.v := rfl
@[simp] theorem State.setDT_pc (b : Byte) : (s.setDT b).pc = s.pc := rfl
@[simp] theorem State.setDT_i (b : Byte) : (s.setDT b).i = s.i := rfl
@[simp] theorem State.setDT_sp (b : Byte) : (s.setDT b).sp = s.sp := rfl
@[simp] theorem State.setDT_stack (b : Byte) : (s.setDT b).stack = s.stack := rfl
@[simp] theorem State.setDT_dt (b : Byte) : (s.setDT b).dt = b := rfl
@[simp] theorem State.setDT_st (b : Byte) : (s.setDT b).st = s.st := rfl
@[simp] theorem State.setDT_disp (b : Byte) : (s.setDT b).disp = s.disp := rfl
@[simp] theorem State.setDT_k (b : Byte) : (s.setDT b).k = s.k := rfl
@[simp] theorem State.setDT_mode (b : Byte) : (s.setDT b).mode = s.mode := rfl
@[simp] theorem State.setDT_lastOp (b : Byte) : (s.setDT b).lastOp = s.lastOp := rfl
@[simp] theorem State.setDT_fault (b : Byte) : (s.setDT b).fault = s.fault := rfl
@[simp] theorem State.setDT_loaded (b : Byte) : (s.setDT b).loaded = s.loaded := rfl
@[simp] theorem State.setDT_mem (b : Byte) : (s.setDT b).mem = s.mem := rfl
@[simp] theorem State.setDT_keysIn (b : Byte) : (s.setDT b).keysIn = s.keysIn := rfl
@[simp] theorem State.setDT_inbox (b : Byte) : (s.setDT b).inbox = s.inbox := rfl
@[simp] theorem State.setDT_schedule (b : Byte) : (s.setDT b).schedule = s.schedule := rfl
@[simp] theorem State.setDT_reply (b : Byte) : (s.setDT b).reply = s.reply := rfl
@[simp] theorem State.setDT_draws (b : Byte) : (s.setDT b).draws = s.draws := rfl

/-! ### setST -/

@[simp] theorem State.setST_v (b : Byte) : (s.setST b).v = s.v := rfl
@[simp] theorem State.setST_pc (b : Byte) : (s.setST b).pc = s.pc := rfl
@[simp] theorem State.setST_i (b : Byte) : (s.setST b).i = s.i := rfl
@[simp] theorem State.setST_sp (b : Byte) : (s.setST b).sp = s.sp := rfl
@[simp] theorem State.setST_stack (b : Byte) : (s.setST b).stack = s.stack := rfl
@[simp] theorem State.setST_dt (b : Byte) : (s.setST b).dt = s.dt := rfl
@[simp] theorem State.setST_st (b : Byte) : (s.setST b).st = b := rfl
@[simp] theorem State.setST_disp (b : Byte) : (s.setST b).disp = s.disp := rfl
@[simp] theorem State.setST_k (b : Byte) : (s.setST b).k = s.k := rfl
@[simp] theorem State.setST_mode (b : Byte) : (s.setST b).mode = s.mode := rfl
@[simp] theorem State.setST_lastOp (b : Byte) : (s.setST b).lastOp = s.lastOp := rfl
@[simp] theorem State.setST_fault (b : Byte) : (s.setST b).fault = s.fault := rfl
@[simp] theorem State.setST_loaded (b : Byte) : (s.setST b).loaded = s.loaded := rfl
@[simp] theorem State.setST_mem (b : Byte) : (s.setST b).mem = s.mem := rfl
@[simp] theorem State.setST_keysIn (b : Byte) : (s.setST b).keysIn = s.keysIn := rfl
@[simp] theorem State.setST_inbox (b : Byte) : (s.setST b).inbox = s.inbox := rfl
@[simp] theorem State.setST_schedule (b : Byte) : (s.setST b).schedule = s.schedule := rfl
@[simp] theorem State.setST_reply (b : Byte) : (s.setST b).reply = s.reply := rfl
@[simp] theorem State.setST_draws (b : Byte) : (s.setST b).draws = s.draws := rfl

/-! ### waitForKey -/

@[simp] theorem State.waitForKey_v : (s.waitForKey).v = s.v := rfl
@[simp] theorem State.waitForKey_pc : (s.waitForKey).pc = s.pc - 2 := rfl
@[simp] theorem State.waitForKey_i : (s.waitForKey).i = s.i := rfl
@[simp] theorem State.waitForKey_sp : (s.waitForKey).sp = s.sp := rfl
@[simp] theorem State.waitForKey_stack : (s.waitForKey).stack = s.stack := rfl
@[simp] theorem State.waitForKey_dt : (s.waitForKey).dt = s.dt := rfl
@[simp] theorem State.waitForKey_st : (s.waitForKey).st = s.st := rfl
@[simp] theorem State.waitForKey_disp : (s.waitForKey).disp = s.disp := rfl
@[simp] theorem State.waitForKey_k : (s.waitForKey).k = s.k := rfl
@[simp] theorem State.waitForKey_mode : (s.waitForKey).mode = .awaitingKey := rfl
@[simp] theorem State.waitForKey_lastOp : (s.waitForKey).lastOp = s.lastOp := rfl
@[simp] theorem State.waitForKey_fault : (s.waitForKey).fault = s.fault := rfl
@[simp] theorem State.waitForKey_loaded : (s.waitForKey).loaded = s.loaded := rfl
@[simp] theorem State.waitForKey_mem : (s.waitForKey).mem = s.mem := rfl
@[simp] theorem State.waitForKey_keysIn : (s.waitForKey).keysIn = s.keysIn := rfl
@[simp] theorem State.waitForKey_inbox : (s.waitForKey).inbox = s.inbox := rfl
@[simp] theorem State.waitForKey_schedule : (s.waitForKey).schedule = s.schedule := rfl
@[simp] theorem State.waitForKey_reply : (s.waitForKey).reply = s.reply := rfl
@[simp] theorem State.waitForKey_draws : (s.waitForKey).draws = s.draws := rfl

/-! ### drawSprite -/

@[simp] theorem State.drawSprite_v (x0 y0 : Nat) (rows : List Byte) : (s.drawSprite x0 y0 rows).v =
    s.v.set VF.val (flagByte (toggleAll s.disp false (spriteCells x0 y0 rows)).2) := rfl
@[simp] theorem State.drawSprite_pc (x0 y0 : Nat) (rows : List Byte) : (s.drawSprite x0 y0 rows).pc = s.pc := rfl
@[simp] theorem State.drawSprite_i (x0 y0 : Nat) (rows : List Byte) : (s.drawSprite x0 y0 rows).i = s.i := rfl
@[simp] theorem State.drawSprite_sp (x0 y0 : Nat) (rows : List Byte) : (s.drawSprite x0 y0 rows).sp = s.sp := rfl
@[simp] theorem State.drawSprite_stack (x0 y0 : Nat) (rows : List Byte) : (s.drawSprite x0 y0 rows).stack = s.stack := rfl
@[simp] theorem State.drawSprite_dt (x0 y0 : Nat) (rows : List Byte) : (s.drawSprite x0 y0 rows).dt = s.dt := rfl
@[simp] theorem State.drawSprite_st (x0 y0 : Nat) (rows : List Byte) : (s.drawSprite x0 y0 rows).st = s.st := rfl
@[simp] theorem State.drawSprite_disp (x0 y0 : Nat) (rows : List Byte) : (s.drawSprite x0 y0 rows).disp = (toggleAll s.disp false (spriteCells x0 y0 rows)).1 := rfl
@[simp] theorem State.drawSprite_k (x0 y0 : Nat) (rows : List Byte) : (s.drawSprite x0 y0 rows).k = s.k := rfl
@[simp] theorem State.drawSprite_mode (x0 y0 : Nat) (rows : List Byte) : (s.drawSprite x0 y0 rows).mode = s.mode := rfl
@[simp] theorem State.drawSprite_lastOp (x0 y0 : Nat) (rows : List Byte) : (s.drawSprite x0 y0 rows).lastOp = s.lastOp := rfl
@[simp] theorem State.drawSprite_fault (x0 y0 : Nat) (rows : List Byte) : (s.drawSprite x0 y0 rows).fault = s.fault := rfl
@[simp] theorem State.drawSprite_loaded (x0 y0 : Nat) (rows : List Byte) : (s.drawSprite x0 y0 rows).loaded = s.loaded := rfl
@[simp] theorem State.drawSprite_mem (x0 y0 : Nat) (rows : List Byte) : (s.drawSprite x0 y0 rows).mem = s.mem := rfl
@[simp] theorem State.drawSprite_keysIn (x0 y0 : Nat) (rows : List Byte) : (s.drawSprite x0 y0 rows).keysIn = s.keysIn := rfl
@[simp] theorem State.drawSprite_inbox (x0 y0 : Nat) (rows : List Byte) : (s.drawSprite x0 y0 rows).inbox = s.inbox := rfl
@[simp] theorem State.drawSprite_schedule (x0 y0 : Nat) (rows : List Byte) : (s.drawSprite x0 y0 rows).schedule = s.schedule := rfl
@[simp] theorem State.drawSprite_reply (x0 y0 : Nat) (rows : List Byte) : (s.drawSprite x0 y0 rows).reply = s.reply := rfl
@[simp] theorem State.drawSprite_draws (x0 y0 : Nat) (rows : List Byte) : (s.drawSprite x0 y0 rows).draws = s.draws := rfl

/-! ### fetched -/

@[simp] theorem State.fetched_v (w : Word) : (s.fetched w).v = s.v := rfl
@[simp] theorem State.fetched_pc (w : Word) : (s.fetched w).pc = s.pc + 2 := rfl
@[simp] theorem State.fetched_i (w : Word) : (s.fetched w).i = s.i := rfl
@[simp] theorem State.fetched_sp (w : Word) : (s.fetched w).sp = s.sp := rfl
@[simp] theorem State.fetched_stack (w : Word) : (s.fetched w).stack = s.stack := rfl
@[simp] theorem State.fetched_dt (w : Word) : (s.fetched w).dt = s.dt := rfl
@[simp] theorem State.fetched_st (w : Word) : (s.fetched w).st = s.st := rfl
@[simp] theorem State.fetched_disp (w : Word) : (s.fetched w).disp = s.disp := rfl
@[simp] theorem State.fetched_k (w : Word) : (s.fetched w).k = s.keysIn := rfl
@[simp] theorem State.fetched_mode (w : Word) : (s.fetched w).mode = .running := rfl
@[simp] theorem State.fetched_lastOp (w : Word) : (s.fetched w).lastOp = w := rfl
@[simp] theorem State.fetched_fault (w : Word) : (s.fetched w).fault = s.fault := rfl
@[simp] theorem State.fetched_loaded (w : Word) : (s.fetched w).loaded = s.loaded := rfl
@[simp] theorem State.fetched_mem (w : Word) : (s.fetched w).mem = s.mem := rfl
@[simp] theorem State.fetched_keysIn (w : Word) : (s.fetched w).keysIn = s.keysIn := rfl
@[simp] theorem State.fetched_inbox (w : Word) : (s.fetched w).inbox = s.inbox := rfl
@[simp] theorem State.fetched_schedule (w : Word) : (s.fetched w).schedule = s.schedule := rfl
@[simp] theorem State.fetched_reply (w : Word) : (s.fetched w).reply = s.reply := rfl
@[simp] theorem State.fetched_draws (w : Word) : (s.fetched w).draws = s.draws := rfl

/-! ### finished -/

@[simp] theorem State.finished_v (d : Bool) : (s.finished d).v = s.v := rfl
@[simp] theorem State.finished_pc (d : Bool) : (s.finished d).pc = s.pc := rfl
@[simp] theorem State.finished_i (d : Bool) : (s.finished d).i = s.i := rfl
@[simp] theorem State.finished_sp (d : Bool) : (s.finished d).sp = s.sp := rfl
@[simp] theorem State.finished_stack (d : Bool) : (s.finished d).stack = s.stack := rfl
@[simp] theorem State.finished_dt (d : Bool) : (s.finished d).dt = s.dt := rfl
@[simp] theorem State.finished_st (d : Bool) : (s.finished d).st = s.st := rfl
@[simp] theorem State.finished_disp (d : Bool) : (s.finished d).disp = s.disp := rfl
@[simp] theorem State.finished_k (d : Bool) : (s.finished d).k = s.k := rfl
@[simp] theorem State.finished_mode (d : Bool) : (s.finished d).mode = s.mode := rfl
@[simp] theorem State.finished_lastOp (d : Bool) : (s.finished d).lastOp = s.lastOp := rfl
@[simp] theorem State.finished_fault (d : Bool) : (s.finished d).fault = s.fault := rfl
@[simp] theorem State.finished_loaded (d : Bool) : (s.finished d).loaded = s.loaded := rfl
@[simp] theorem State.finished_mem (d : Bool) : (s.finished d).mem = s.mem := rfl
@[simp] theorem State.finished_keysIn (d : Bool) : (s.finished d).keysIn = s.keysIn := rfl
@[simp] theorem State.finished_inbox (d : Bool) : (s.finished d).inbox = s.inbox := rfl
@[simp] theorem State.finished_schedule (d : Bool) : (s.finished d).schedule = s.schedule := rfl
@[simp] theorem State.finished_reply (d : Bool) : (s.finished d).reply = .stepOk d s.tone := rfl
@[simp] theorem State.finished_draws (d : Bool) : (s.finished d).draws = s.draws := rfl

/-! ### takeFault -/

@[simp] theorem State.takeFault_v (f : Fault) (w : Word) : (s.takeFault f w).v = s.v := rfl
@[simp] theorem State.takeFault_pc (f : Fault) (w : Word) : (s.takeFault f w).pc = s.pc := rfl
@[simp] theorem State.takeFault_i (f : Fault) (w : Word) : (s.takeFault f w).i = s.i := rfl
@[simp] theorem State.takeFault_sp (f : Fault) (w : Word) : (s.takeFault f w).sp = s.sp := rfl
@[simp] theorem State.takeFault_stack (f : Fault) (w : Word) : (s.takeFault f w).stack = s.stack := rfl
@[simp] theorem State.takeFault_dt (f : Fault) (w : Word) : (s.takeFault f w).dt = s.dt := rfl
@[simp] theorem State.takeFault_st (f : Fault) (w : Word) : (s.takeFault f w).st = s.st := rfl
@[simp] theorem State.takeFault_disp (f : Fault) (w : Word) : (s.takeFault f w).disp = s.disp := rfl
@[simp] theorem State.takeFault_k (f : Fault) (w : Word) : (s.takeFault f w).k = s.k := rfl
@[simp] theorem State.takeFault_mode (f : Fault) (w : Word) : (s.takeFault f w).mode = s.mode := rfl
@[simp] theorem State.takeFault_lastOp (f : Fault) (w : Word) : (s.takeFault f w).lastOp = s.lastOp := rfl
@[simp] theorem State.takeFault_fault (f : Fault) (w : Word) : (s.takeFault f w).fault = ⟨f.kind, s.pc, w, f.access, f.info⟩ := rfl
@[simp] theorem State.takeFault_loaded (f : Fault) (w : Word) : (s.takeFault f w).loaded = s.loaded := rfl
@[simp] theorem State.takeFault_mem (f : Fault) (w : Word) : (s.takeFault f w).mem = s.mem := rfl
@[simp] theorem State.takeFault_keysIn (f : Fault) (w : Word) : (s.takeFault f w).keysIn = s.keysIn := rfl
@[simp] theorem State.takeFault_inbox (f : Fault) (w : Word) : (s.takeFault f w).inbox = s.inbox := rfl
@[simp] theorem State.takeFault_schedule (f : Fault) (w : Word) : (s.takeFault f w).schedule = s.schedule := rfl
@[simp] theorem State.takeFault_reply (f : Fault) (w : Word) : (s.takeFault f w).reply = .fault ⟨f.kind, s.pc, w, f.access, f.info⟩ := rfl
@[simp] theorem State.takeFault_draws (f : Fault) (w : Word) : (s.takeFault f w).draws = s.draws := rfl

/-! ### construct -/

@[simp] theorem State.construct_v : (s.construct).v = Vector.replicate 16 0 := rfl
@[simp] theorem State.construct_pc : (s.construct).pc = 0x200 := rfl
@[simp] theorem State.construct_i : (s.construct).i = 0 := rfl
@[simp] theorem State.construct_sp : (s.construct).sp = 0 := rfl
@[simp] theorem State.construct_stack : (s.construct).stack = Vector.replicate 16 0 := rfl
@[simp] theorem State.construct_dt : (s.construct).dt = 0 := rfl
@[simp] theorem State.construct_st : (s.construct).st = 0 := rfl
@[simp] theorem State.construct_disp : (s.construct).disp = 0 := rfl
@[simp] theorem State.construct_k : (s.construct).k = 0 := rfl
@[simp] theorem State.construct_mode : (s.construct).mode = .running := rfl
@[simp] theorem State.construct_lastOp : (s.construct).lastOp = 0 := rfl
@[simp] theorem State.construct_fault : (s.construct).fault = FaultRecord.clear := rfl
@[simp] theorem State.construct_loaded : (s.construct).loaded = false := rfl
@[simp] theorem State.construct_mem : (s.construct).mem = ⟨s.mem.font, []⟩ := rfl
@[simp] theorem State.construct_keysIn : (s.construct).keysIn = s.keysIn := rfl
@[simp] theorem State.construct_inbox : (s.construct).inbox = s.inbox := rfl
@[simp] theorem State.construct_schedule : (s.construct).schedule = s.schedule := rfl
@[simp] theorem State.construct_reply : (s.construct).reply = .nothing := rfl
@[simp] theorem State.construct_draws : (s.construct).draws = s.draws := rfl

/-! ### served -/

@[simp] theorem State.served_v : (s.served).v = s.v := rfl
@[simp] theorem State.served_pc : (s.served).pc = s.pc := rfl
@[simp] theorem State.served_i : (s.served).i = s.i := rfl
@[simp] theorem State.served_sp : (s.served).sp = s.sp := rfl
@[simp] theorem State.served_stack : (s.served).stack = s.stack := rfl
@[simp] theorem State.served_dt : (s.served).dt = s.dt := rfl
@[simp] theorem State.served_st : (s.served).st = s.st := rfl
@[simp] theorem State.served_disp : (s.served).disp = s.disp := rfl
@[simp] theorem State.served_k : (s.served).k = s.k := rfl
@[simp] theorem State.served_mode : (s.served).mode = s.mode := rfl
@[simp] theorem State.served_lastOp : (s.served).lastOp = s.lastOp := rfl
@[simp] theorem State.served_fault : (s.served).fault = s.fault := rfl
@[simp] theorem State.served_loaded : (s.served).loaded = s.loaded := rfl
@[simp] theorem State.served_mem : (s.served).mem = s.mem := rfl
@[simp] theorem State.served_keysIn : (s.served).keysIn = s.keysIn := rfl
@[simp] theorem State.served_inbox : (s.served).inbox = s.inboxAfter := rfl
@[simp] theorem State.served_schedule : (s.served).schedule = s.scheduleAfter := rfl
@[simp] theorem State.served_reply : (s.served).reply = s.reply := rfl
@[simp] theorem State.served_draws : (s.served).draws = s.draws := rfl

/-! ### The host's next request, by what is pending and what is scheduled -/

theorem State.nextRequest_cons {r : Request} {rs : List Request} (h : s.inbox = r :: rs) : s.nextRequest = r := by
  simp [State.nextRequest, h]
theorem State.nextRequest_nil (h : s.inbox = []) : s.nextRequest = s.schedule.next s.keysIn := by simp [State.nextRequest, h]
theorem State.inboxAfter_cons {r : Request} {rs : List Request} (h : s.inbox = r :: rs) : s.inboxAfter = rs := by
  simp [State.inboxAfter, h]
theorem State.inboxAfter_nil (h : s.inbox = []) : s.inboxAfter = s.schedule.pending := by simp [State.inboxAfter, h]
theorem State.scheduleAfter_cons {r : Request} {rs : List Request} (h : s.inbox = r :: rs) : s.scheduleAfter = s.schedule := by
  simp [State.scheduleAfter, h]
theorem State.scheduleAfter_nil (h : s.inbox = []) : s.scheduleAfter = s.schedule.after := by simp [State.scheduleAfter, h]

@[simp] theorem Schedule.next_steps (keys : Keys) : (Schedule.repeating []).next keys = .step keys := rfl
@[simp] theorem Schedule.next_round (keys : Keys) (r : Request) (rs : List Request) : (Schedule.repeating (r :: rs)).next keys = r := rfl
@[simp] theorem Schedule.next_free (keys : Keys) (n : Nat) : (Schedule.free n).next keys = Config.hostRequest n := rfl
@[simp] theorem Schedule.pending_repeating (round : List Request) : (Schedule.repeating round).pending = round.tail := rfl
@[simp] theorem Schedule.pending_free (n : Nat) : (Schedule.free n).pending = [] := rfl
@[simp] theorem Schedule.after_repeating (round : List Request) : (Schedule.repeating round).after = .repeating round := rfl
@[simp] theorem Schedule.after_free (n : Nat) : (Schedule.free n).after = .free (n + 1) := rfl

/-! ### placeWord -/

@[simp] theorem State.placeWord_v (w : Word) : (s.placeWord w).v = s.v := rfl
@[simp] theorem State.placeWord_pc (w : Word) : (s.placeWord w).pc = s.pc := rfl
@[simp] theorem State.placeWord_i (w : Word) : (s.placeWord w).i = s.i := rfl
@[simp] theorem State.placeWord_sp (w : Word) : (s.placeWord w).sp = s.sp := rfl
@[simp] theorem State.placeWord_stack (w : Word) : (s.placeWord w).stack = s.stack := rfl
@[simp] theorem State.placeWord_dt (w : Word) : (s.placeWord w).dt = s.dt := rfl
@[simp] theorem State.placeWord_st (w : Word) : (s.placeWord w).st = s.st := rfl
@[simp] theorem State.placeWord_disp (w : Word) : (s.placeWord w).disp = s.disp := rfl
@[simp] theorem State.placeWord_k (w : Word) : (s.placeWord w).k = s.k := rfl
@[simp] theorem State.placeWord_mode (w : Word) : (s.placeWord w).mode = s.mode := rfl
@[simp] theorem State.placeWord_lastOp (w : Word) : (s.placeWord w).lastOp = s.lastOp := rfl
@[simp] theorem State.placeWord_fault (w : Word) : (s.placeWord w).fault = FaultRecord.clear := rfl
@[simp] theorem State.placeWord_loaded (w : Word) : (s.placeWord w).loaded = true := rfl
@[simp] theorem State.placeWord_mem (w : Word) : (s.placeWord w).mem = if s.pc.toNat + 1 > 0xFFF then s.mem else s.mem.writeWord s.pc.toNat w := rfl
@[simp] theorem State.placeWord_keysIn (w : Word) : (s.placeWord w).keysIn = s.keysIn := rfl
@[simp] theorem State.placeWord_inbox (w : Word) : (s.placeWord w).inbox = s.steppingInbox := rfl
@[simp] theorem State.placeWord_schedule (w : Word) : (s.placeWord w).schedule = s.schedule := rfl
@[simp] theorem State.placeWord_reply (w : Word) : (s.placeWord w).reply = s.reply := rfl
@[simp] theorem State.placeWord_draws (w : Word) : (s.placeWord w).draws = s.draws := rfl

/-! ### Registers -/

@[simp] theorem State.reg_setReg (x y : Reg) (b : Byte) : (s.setReg x b).reg y = if x = y then b else s.reg y := by
  simp [State.reg, Vector.getElem_set, Fin.ext_iff]

@[simp] theorem State.reg_setRegFlag (x y : Reg) (b : Byte) (c : Bool) :
    (s.setRegFlag x b c).reg y = if VF = y then flagByte c else if x = y then b else s.reg y := by
  simp [State.setRegFlag]

@[simp] theorem State.reg_drawSprite (x0 y0 : Nat) (rows : List Byte) (y : Reg) :
    (s.drawSprite x0 y0 rows).reg y =
      if VF = y then flagByte (toggleAll s.disp false (spriteCells x0 y0 rows)).2 else s.reg y := by
  simp [State.drawSprite]; rfl

@[simp] theorem State.reg_jump (w : Word) (y : Reg) : (s.jump w).reg y = s.reg y := rfl
@[simp] theorem State.reg_skipIf (c : Bool) (y : Reg) : (s.skipIf c).reg y = s.reg y := rfl
@[simp] theorem State.reg_setI (w : Word) (y : Reg) : (s.setI w).reg y = s.reg y := rfl
@[simp] theorem State.reg_setDT (b : Byte) (y : Reg) : (s.setDT b).reg y = s.reg y := rfl
@[simp] theorem State.reg_setST (b : Byte) (y : Reg) : (s.setST b).reg y = s.reg y := rfl
@[simp] theorem State.reg_waitForKey (y : Reg) : (s.waitForKey).reg y = s.reg y := rfl
@[simp] theorem State.reg_fetched (w : Word) (y : Reg) : (s.fetched w).reg y = s.reg y := rfl
@[simp] theorem State.reg_finished (d : Bool) (y : Reg) : (s.finished d).reg y = s.reg y := rfl
@[simp] theorem State.reg_takeFault (f : Fault) (w : Word) (y : Reg) : (s.takeFault f w).reg y = s.reg y := rfl
@[simp] theorem State.reg_served (y : Reg) : (s.served).reg y = s.reg y := rfl
@[simp] theorem State.reg_placeWord (w : Word) (y : Reg) : (s.placeWord w).reg y = s.reg y := rfl

@[simp] theorem State.reg_construct (y : Reg) : s.construct.reg y = 0 := by
  simp [State.reg]

/-! ### The random draw -/

@[simp] theorem State.drawByte_v : s.drawByte.2.v = s.v := rfl
@[simp] theorem State.drawByte_pc : s.drawByte.2.pc = s.pc := rfl
@[simp] theorem State.drawByte_i : s.drawByte.2.i = s.i := rfl
@[simp] theorem State.drawByte_sp : s.drawByte.2.sp = s.sp := rfl
@[simp] theorem State.drawByte_stack : s.drawByte.2.stack = s.stack := rfl
@[simp] theorem State.drawByte_dt : s.drawByte.2.dt = s.dt := rfl
@[simp] theorem State.drawByte_st : s.drawByte.2.st = s.st := rfl
@[simp] theorem State.drawByte_disp : s.drawByte.2.disp = s.disp := rfl
@[simp] theorem State.drawByte_k : s.drawByte.2.k = s.k := rfl
@[simp] theorem State.drawByte_mode : s.drawByte.2.mode = s.mode := rfl
@[simp] theorem State.drawByte_lastOp : s.drawByte.2.lastOp = s.lastOp := rfl
@[simp] theorem State.drawByte_fault : s.drawByte.2.fault = s.fault := rfl
@[simp] theorem State.drawByte_loaded : s.drawByte.2.loaded = s.loaded := rfl
@[simp] theorem State.drawByte_mem : s.drawByte.2.mem = s.mem := rfl
@[simp] theorem State.drawByte_keysIn : s.drawByte.2.keysIn = s.keysIn := rfl
@[simp] theorem State.drawByte_inbox : s.drawByte.2.inbox = s.inbox := rfl
@[simp] theorem State.drawByte_schedule : s.drawByte.2.schedule = s.schedule := rfl
@[simp] theorem State.drawByte_reply : s.drawByte.2.reply = s.reply := rfl
@[simp] theorem State.drawByte_draws : s.drawByte.2.draws = s.draws + 1 := rfl

@[simp] theorem State.reg_drawByte (y : Reg) : s.drawByte.2.reg y = s.reg y := rfl

@[simp] theorem State.drawByte_byte : s.drawByte.1 = Config.randomByte s.draws := rfl

/-! ### Other views -/

@[simp] theorem State.tone_finished (d : Bool) : (s.finished d).tone = s.tone := rfl

@[simp] theorem State.keyDown_fetched (w : Word) (k : Nat) : (s.fetched w).keyDown k = s.keysIn.getLsbD k := rfl

@[simp] theorem State.effAddr_fetched (w : Word) (k : Nat) : (s.fetched w).effAddr k = s.i.toNat + k := rfl

@[simp] theorem State.regsTo_fetched (w : Word) (x : Reg) : (s.fetched w).regsTo x = s.regsTo x := rfl

/-- A recorded fault, as a proposition about the kind. -/
theorem State.faulted_eq_false : s.faulted = false ↔ s.fault.kind = .none := by
  simp [State.faulted]

theorem State.faulted_eq_true : s.faulted = true ↔ s.fault.kind ≠ .none := by
  simp [State.faulted]

/-! ### tick -/

@[simp] theorem State.tick_v : s.tick.v = s.v := by unfold State.tick; split <;> rfl
@[simp] theorem State.tick_pc : s.tick.pc = s.pc := by unfold State.tick; split <;> rfl
@[simp] theorem State.tick_i : s.tick.i = s.i := by unfold State.tick; split <;> rfl
@[simp] theorem State.tick_sp : s.tick.sp = s.sp := by unfold State.tick; split <;> rfl
@[simp] theorem State.tick_stack : s.tick.stack = s.stack := by unfold State.tick; split <;> rfl
theorem State.tick_dt : s.tick.dt = if s.faulted then s.dt else countDown s.dt := by
  unfold State.tick; split <;> rfl
theorem State.tick_st : s.tick.st = if s.faulted then s.st else countDown s.st := by
  unfold State.tick; split <;> rfl
@[simp] theorem State.tick_disp : s.tick.disp = s.disp := by unfold State.tick; split <;> rfl
@[simp] theorem State.tick_k : s.tick.k = s.k := by unfold State.tick; split <;> rfl
@[simp] theorem State.tick_mode : s.tick.mode = s.mode := by unfold State.tick; split <;> rfl
@[simp] theorem State.tick_lastOp : s.tick.lastOp = s.lastOp := by unfold State.tick; split <;> rfl
@[simp] theorem State.tick_fault : s.tick.fault = s.fault := by unfold State.tick; split <;> rfl
@[simp] theorem State.tick_loaded : s.tick.loaded = s.loaded := by unfold State.tick; split <;> rfl
@[simp] theorem State.tick_mem : s.tick.mem = s.mem := by unfold State.tick; split <;> rfl
@[simp] theorem State.tick_keysIn : s.tick.keysIn = s.keysIn := by unfold State.tick; split <;> rfl
@[simp] theorem State.tick_inbox : s.tick.inbox = s.inbox := by unfold State.tick; split <;> rfl
@[simp] theorem State.tick_schedule : s.tick.schedule = s.schedule := by unfold State.tick; split <;> rfl
@[simp] theorem State.tick_reply : s.tick.reply = .nothing := by unfold State.tick; split <;> rfl
@[simp] theorem State.tick_draws : s.tick.draws = s.draws := by unfold State.tick; split <;> rfl

end Sys2Proof.Machine
end

