-- ==== Sys2Proof/Laws/Ops.lean ====
section
/-! SUPPORT. What each shared operation can do, said once: registers, the call stack, the key operands, the flags, the display and
the step around a rule. -/

namespace Sys2Proof.Machine

/-! ### Registers -/

theorem setFrom_getElem (v : Vector Byte 16) (j : Nat) (bs : List Byte) (hj : j + bs.length ≤ 16) (y : Nat) (hy : y < 16) :
    (setFrom v j bs)[y] = if h : j ≤ y ∧ y < j + bs.length then bs[y - j]'(by omega) else v[y] := by
  induction bs generalizing v j with
  | nil => simp only [setFrom, List.length_nil]; rw [dif_neg (by omega)]
  | cons b bs ih =>
    simp only [List.length_cons] at hj
    simp only [setFrom, dif_pos (show j < 16 by omega), List.length_cons]
    rw [ih _ _ (by omega)]
    by_cases hyj : y = j
    · subst hyj; rw [dif_neg (by omega), dif_pos (by omega)]; simp
    · by_cases hin : j + 1 ≤ y ∧ y < j + 1 + bs.length
      · rw [dif_pos hin, dif_pos (by omega)]
        obtain ⟨k, rfl⟩ : ∃ k, y = j + 1 + k := ⟨y - (j + 1), by omega⟩
        have e1 : j + 1 + k - (j + 1) = k := by omega
        have e2 : j + 1 + k - j = k + 1 := by omega
        simp only [e1, e2, List.getElem_cons_succ]
      · rw [dif_neg hin, dif_neg (by omega)]
        exact Vector.getElem_set_ne _ _ (Ne.symm hyj)

/-- The registers after a row of bytes is loaded from V0 on (R119). -/
theorem State.reg_setRegs (s : State) {bs : List Byte} (hb : bs.length ≤ 16) (y : Reg) :
    (s.setRegs bs).reg y = if h : y.val < bs.length then bs[y.val] else s.reg y := by
  have := setFrom_getElem s.v 0 bs (by omega) y.val y.isLt
  simpa [State.reg] using this

@[simp] theorem State.length_regsTo (s : State) (x : Reg) : (s.regsTo x).length = x.val + 1 := by
  have := x.isLt
  simp [State.regsTo]

theorem State.getElem_regsTo (s : State) (x : Reg) (k : Nat) (h : k < (s.regsTo x).length) :
    (s.regsTo x)[k] = s.reg ⟨k, by rw [State.length_regsTo] at h; omega⟩ := by
  simp [State.regsTo, State.reg]

/-! ### The call stack (R27) -/

theorem State.push_ok (s : State) (a : Word) (h : s.sp.val < 16) :
    s.push a = .ok { s with stack := s.stack.set s.sp.val a, sp := ⟨s.sp.val + 1, Nat.succ_lt_succ h⟩ } := by
  simp [State.push, h]

theorem State.push_error (s : State) (a : Word) (h : s.sp.val = 16) : s.push a = .error .stackOverflow := by
  simp [State.push, h]

theorem State.pop_ok (s : State) (h : s.sp.val ≠ 0) :
    s.pop = .ok (s.stack[s.sp.val - 1]'(by omega), { s with sp := ⟨s.sp.val - 1, by omega⟩ }) := by
  simp [State.pop, h]

theorem State.pop_error (s : State) (h : s.sp.val = 0) : s.pop = .error .stackUnderflow := by
  simp [State.pop, h]

/-! ### Keys (R128, R130) -/

theorem keyIndex_ok {v : Byte} (h : v.toNat < 16) : keyIndex v = .ok v.toNat := by
  simp [keyIndex, Nat.not_le.mpr h]

theorem keyIndex_error {v : Byte} (h : 16 ≤ v.toNat) : keyIndex v = .error (.keyIndexOutOfRange v) := by
  simp [keyIndex, h]

theorem firstKeyFrom_none {keys : Keys} {j n : Nat} :
    firstKeyFrom keys j n = none ↔ ∀ k, j ≤ k → k < j + n → keys.getLsbD k = false := by
  induction n generalizing j with
  | zero => simp [firstKeyFrom]; intro k; omega
  | succ n ih =>
    simp only [firstKeyFrom]
    by_cases hj : keys.getLsbD j
    · simp only [hj, if_true, reduceCtorEq, false_iff]
      intro h; have := h j (by omega) (by omega); simp [hj] at this
    · simp only [hj, Bool.false_eq_true, if_false, ih]
      constructor
      · intro h k h1 h2
        by_cases hk : k = j
        · subst hk; simpa using hj
        · exact h k (by omega) (by omega)
      · intro h k h1 h2; exact h k (by omega) (by omega)

theorem firstKeyFrom_some {keys : Keys} {j n k : Nat} (h : firstKeyFrom keys j n = some k) :
    j ≤ k ∧ k < j + n ∧ keys.getLsbD k = true ∧ ∀ m, j ≤ m → m < k → keys.getLsbD m = false := by
  induction n generalizing j with
  | zero => simp [firstKeyFrom] at h
  | succ n ih =>
    simp only [firstKeyFrom] at h
    by_cases hj : keys.getLsbD j
    · simp only [hj, if_true, Option.some.injEq] at h; subst h
      exact ⟨le_refl _, by omega, hj, fun m h1 h2 => by omega⟩
    · simp only [hj, Bool.false_eq_true, if_false] at h
      obtain ⟨h1, h2, h3, h4⟩ := ih h
      refine ⟨by omega, by omega, h3, fun m hm1 hm2 => ?_⟩
      by_cases hm : m = j
      · subst hm; simpa using hj
      · exact h4 m (by omega) hm2

/-- No key is found exactly where none is pressed (R130). -/
theorem firstKey_none {keys : Keys} : firstKey keys = none ↔ keys = 0 := by
  rw [firstKey, firstKeyFrom_none]
  constructor
  · intro h; apply BitVec.eq_of_getLsbD_eq; intro k hk; simpa using h k (by omega) (by omega)
  · rintro rfl k _ _; simp

/-- A key that is found is pressed, and none below it is (R130). -/
theorem firstKey_some {keys : Keys} {k : Nat} (h : firstKey keys = some k) :
    k < 16 ∧ keys.getLsbD k = true ∧ ∀ m < k, keys.getLsbD m = false := by
  obtain ⟨_, h2, h3, h4⟩ := firstKeyFrom_some h
  exact ⟨by omega, h3, fun m hm => h4 m (by omega) hm⟩

/-! ### Flags (R22) -/

theorem flagByte_toNat (c : Bool) : (flagByte c).toNat = if c then 1 else 0 := by cases c <;> rfl

theorem sumByte_toNat (a b : Byte) : (sumByte a b).toNat = (a.toNat + b.toNat) % 256 := by simp [sumByte]

theorem diffByte_toNat (a b : Byte) : (diffByte a b).toNat = (a.toNat + 256 - b.toNat) % 256 := by simp [diffByte]

theorem shiftRightByte_toNat (a : Byte) : (shiftRightByte a).toNat = a.toNat / 2 := by
  have := a.isLt
  simp only [shiftRightByte, BitVec.toNat_ofNat]; omega

theorem shiftLeftByte_toNat (a : Byte) : (shiftLeftByte a).toNat = a.toNat * 2 % 256 := by simp [shiftLeftByte]

theorem lowBit_eq (a : Byte) : lowBit a = decide (a.toNat % 2 = 1) := by
  simp [lowBit, BitVec.getLsbD, Nat.testBit_zero]

theorem highBit_eq (a : Byte) : highBit a = decide (a.toNat / 128 = 1) := by
  have := a.isLt
  simp only [highBit, BitVec.getLsbD, Nat.testBit_eq_decide_div_mod_eq]
  congr 1; rw [eq_iff_iff]; omega

/-! ### The display (R122, R124, R126) -/

/-- One toggle, cell by cell (R122). -/
theorem getLsbD_toggle (d : Cells) (j cell : Nat) :
    (toggle d j).1.getLsbD cell = (d.getLsbD cell != decide (j % 2048 = cell)) := by
  simp only [toggle, BitVec.getLsbD_xor, BitVec.getLsbD_twoPow, Config.dispCells]
  simp only [decide_eq_true (Nat.mod_lt j (show 0 < 2048 by omega)), Bool.true_and]

/-- Distinct cells toggled one after another: each is inverted once, and the hit says whether one of them was set (R126). -/
theorem toggleAll_spec (d : Cells) (hit : Bool) (js : List Nat) (hnd : (js.map (· % 2048)).Nodup) :
    (∀ cell < 2048, (toggleAll d hit js).1.getLsbD cell = (d.getLsbD cell != decide (cell ∈ js.map (· % 2048)))) ∧
    ((toggleAll d hit js).2 = true ↔ hit = true ∨ ∃ j ∈ js, d.getLsbD (j % 2048) = true) := by
  induction js generalizing d hit with
  | nil => simp [toggleAll]
  | cons j js ih =>
    simp only [List.map_cons, List.nodup_cons] at hnd
    obtain ⟨hj, hnd⟩ := hnd
    obtain ⟨h1, h2⟩ := ih (toggle d j).1 (hit || (toggle d j).2) hnd
    constructor
    · intro cell hc
      simp only [toggleAll, h1 cell hc, getLsbD_toggle d j cell, List.map_cons, List.mem_cons]
      by_cases hcj : cell = j % 2048
      · subst hcj; simp [hj]
      · simp [hcj, Ne.symm hcj]
    · simp only [toggleAll, h2, Bool.or_eq_true, List.mem_cons]
      have hother : ∀ q ∈ js, (toggle d j).1.getLsbD (q % 2048) = d.getLsbD (q % 2048) := by
        intro q hq
        have hne : ¬ j % 2048 = q % 2048 := by
          intro he; exact hj (List.mem_map.mpr ⟨q, hq, he.symm⟩)
        rw [getLsbD_toggle]; simp [hne]
      constructor
      · rintro ((h | h) | ⟨q, hq, h⟩)
        · exact .inl h
        · exact .inr ⟨j, .inl rfl, h⟩
        · exact .inr ⟨q, .inr hq, by rw [← hother q hq]; exact h⟩
      · rintro (h | ⟨q, rfl | hq, h⟩)
        · exact .inl (.inl h)
        · exact .inl (.inr h)
        · exact .inr ⟨q, hq, by rw [hother q hq]; exact h⟩

theorem mem_rowCells {base j : Nat} {row : Byte} :
    j ∈ rowCells base row ↔ ∃ c < 8, row.getLsbD (7 - c) = true ∧ j = base + c := by
  simp only [rowCells, List.mem_map, List.mem_filter, List.mem_range]
  constructor
  · rintro ⟨c, ⟨hc, hb⟩, rfl⟩; exact ⟨c, hc, hb, rfl⟩
  · rintro ⟨c, hc, hb, rfl⟩; exact ⟨c, ⟨hc, hb⟩, rfl⟩

/-- The cells of a sprite before the reduction modulo 2048 (R124, R125). -/
theorem mem_spriteCells {x0 y0 j : Nat} {rows : List Byte} :
    j ∈ spriteCells x0 y0 rows ↔
      ∃ r c, ∃ h : r < rows.length, c < 8 ∧ (rows[r]'h).getLsbD (7 - c) = true ∧ j = (y0 + r) * 64 + x0 + c := by
  induction rows generalizing y0 with
  | nil => simp [spriteCells]
  | cons row rows ih =>
    simp only [spriteCells, List.mem_append, mem_rowCells, ih, Config.dispW]
    constructor
    · rintro (⟨c, hc, hb, rfl⟩ | ⟨r, c, hr, hc, hb, rfl⟩)
      · exact ⟨0, c, by simp, hc, by simpa using hb, by omega⟩
      · exact ⟨r + 1, c, by simpa using hr, hc, by simpa using hb, by ring⟩
    · rintro ⟨r, c, hr, hc, hb, rfl⟩
      cases r with
      | zero => exact .inl ⟨c, hc, by simpa using hb, by omega⟩
      | succ r => exact .inr ⟨r, c, by simpa using hr, hc, by simpa using hb, by ring⟩

/-- The cells of a sprite of at most 15 rows are distinct, also modulo 2048 (R126). -/
theorem nodup_spriteCells {x0 y0 : Nat} {rows : List Byte} (h : rows.length ≤ 15) :
    ((spriteCells x0 y0 rows).map (· % 2048)).Nodup := by
  have hbound : ∀ (y0 : Nat) (rows : List Byte), ∀ j ∈ spriteCells x0 y0 rows,
      y0 * 64 + x0 ≤ j ∧ j < (y0 + rows.length) * 64 + x0 := by
    intro y0 rows j hj
    obtain ⟨r, c, hr, hc, _, rfl⟩ := mem_spriteCells.mp hj
    constructor <;> nlinarith
  have hnd : ∀ (y0 : Nat) (rows : List Byte), (spriteCells x0 y0 rows).Nodup := by
    intro y0 rows
    induction rows generalizing y0 with
    | nil => simp [spriteCells]
    | cons row rows ih =>
      refine List.nodup_append.mpr ⟨?_, ih _, ?_⟩
      · exact (List.nodup_range.filter _).map (fun a b hab => by simpa using hab)
      · intro a ha b hb
        obtain ⟨c, hc, _, rfl⟩ := mem_rowCells.mp ha
        have := (hbound _ _ b hb).1
        simp only [Config.dispW]; omega
  refine List.Nodup.map_on (fun a ha b hb hab => ?_) (hnd y0 rows)
  have h1 := hbound y0 rows a ha
  have h2 := hbound y0 rows b hb
  omega

/-! ### The step around a rule (R81, R88) -/

theorem execute_ok {w : Word} {dirty : Bool} {rule : State → Except Fault State} {s t : State}
    (h : rule (s.fetched w) = .ok t) : execute w dirty rule s = .next (t.finished dirty) := by
  simp [execute, h]

theorem execute_error {w : Word} {dirty : Bool} {rule : State → Except Fault State} {s : State} {f : Fault}
    (h : rule (s.fetched w) = .error f) : execute w dirty rule s = .next (s.takeFault f w) := by
  simp [execute, h]

/-- An executed rule always answers a next state: the committed one or the one that takes the fault. -/
theorem execute_cases (w : Word) (dirty : Bool) (rule : State → Except Fault State) (s : State) :
    (∃ t, rule (s.fetched w) = .ok t ∧ execute w dirty rule s = .next (t.finished dirty)) ∨
    (∃ f, rule (s.fetched w) = .error f ∧ execute w dirty rule s = .next (s.takeFault f w)) := by
  cases h : rule (s.fetched w) with
  | ok t => exact .inl ⟨t, rfl, execute_ok h⟩
  | error f => exact .inr ⟨f, rfl, execute_error h⟩

/-- A raised fault is of a kind (R138). -/
theorem Fault.kind_ne_none (f : Fault) : f.kind ≠ .none := by cases f <;> simp [Fault.kind]

end Sys2Proof.Machine
end

