-- ==== Sys2Proof/Laws/Exec.lean ====
section
/-! SUPPORT. What each instruction does, one equation per form: the state after its step as updates of the state after the fetch,
and where a rule can raise a fault, the two forms with the condition between them. Proofs cite these and unfold no meaning. -/

namespace Sys2Proof.Machine

variable (s : State)

/-! ### Instructions that always complete -/

theorem exec_cls : exec .cls s = .next (State.finished { s.fetched (encode .cls) with disp := 0 } true) := rfl

theorem exec_jp (nnn : Addr) :
    exec (.jp nnn) s = .next (((s.fetched (encode (.jp nnn))).jump (addrWord nnn)).finished false) := rfl

theorem exec_jpV0 (nnn : Addr) :
    exec (.jpV0 nnn) s = .next (((s.fetched (encode (.jpV0 nnn))).jump (jumpV0Target nnn (s.reg 0))).finished false) := rfl

theorem exec_seImm (x : Reg) (nn : Byte) :
    exec (.seImm x nn) s = .next (((s.fetched (encode (.seImm x nn))).skipIf (s.reg x == nn)).finished false) := rfl

theorem exec_sneImm (x : Reg) (nn : Byte) :
    exec (.sneImm x nn) s = .next (((s.fetched (encode (.sneImm x nn))).skipIf (s.reg x != nn)).finished false) := rfl

theorem exec_seReg (x y : Reg) :
    exec (.seReg x y) s = .next (((s.fetched (encode (.seReg x y))).skipIf (s.reg x == s.reg y)).finished false) := rfl

theorem exec_sneReg (x y : Reg) :
    exec (.sneReg x y) s = .next (((s.fetched (encode (.sneReg x y))).skipIf (s.reg x != s.reg y)).finished false) := rfl

theorem exec_ldImm (x : Reg) (nn : Byte) :
    exec (.ldImm x nn) s = .next (((s.fetched (encode (.ldImm x nn))).setReg x nn).finished false) := rfl

theorem exec_addImm (x : Reg) (nn : Byte) :
    exec (.addImm x nn) s = .next (((s.fetched (encode (.addImm x nn))).setReg x (sumByte (s.reg x) nn)).finished false) := rfl

theorem exec_ldReg (x y : Reg) :
    exec (.ldReg x y) s = .next (((s.fetched (encode (.ldReg x y))).setReg x (s.reg y)).finished false) := rfl

theorem exec_orReg (x y : Reg) :
    exec (.orReg x y) s = .next (((s.fetched (encode (.orReg x y))).setReg x (s.reg x ||| s.reg y)).finished false) := rfl

theorem exec_andReg (x y : Reg) :
    exec (.andReg x y) s = .next (((s.fetched (encode (.andReg x y))).setReg x (s.reg x &&& s.reg y)).finished false) := rfl

theorem exec_xorReg (x y : Reg) :
    exec (.xorReg x y) s = .next (((s.fetched (encode (.xorReg x y))).setReg x (s.reg x ^^^ s.reg y)).finished false) := rfl

theorem exec_addReg (x y : Reg) : exec (.addReg x y) s = .next (((s.fetched (encode (.addReg x y))).setRegFlag x
    (sumByte (s.reg x) (s.reg y)) (carry (s.reg x) (s.reg y))).finished false) := rfl

theorem exec_sub (x y : Reg) : exec (.sub x y) s = .next (((s.fetched (encode (.sub x y))).setRegFlag x
    (diffByte (s.reg x) (s.reg y)) (noBorrow (s.reg x) (s.reg y))).finished false) := rfl

theorem exec_shr (x y : Reg) : exec (.shr x y) s = .next (((s.fetched (encode (.shr x y))).setRegFlag x
    (shiftRightByte (s.reg x)) (lowBit (s.reg x))).finished false) := rfl

theorem exec_subn (x y : Reg) : exec (.subn x y) s = .next (((s.fetched (encode (.subn x y))).setRegFlag x
    (diffByte (s.reg y) (s.reg x)) (noBorrow (s.reg y) (s.reg x))).finished false) := rfl

theorem exec_shl (x y : Reg) : exec (.shl x y) s = .next (((s.fetched (encode (.shl x y))).setRegFlag x
    (shiftLeftByte (s.reg x)) (highBit (s.reg x))).finished false) := rfl

theorem exec_rnd (x : Reg) (nn : Byte) : exec (.rnd x nn) s = .next (((s.fetched (encode (.rnd x nn))).drawByte.2.setReg x
    (Config.randomByte s.draws &&& nn)).finished false) := rfl

theorem exec_ldI (nnn : Addr) :
    exec (.ldI nnn) s = .next (((s.fetched (encode (.ldI nnn))).setI (addrWord nnn)).finished false) := rfl

theorem exec_addI (x : Reg) :
    exec (.addI x) s = .next (((s.fetched (encode (.addI x))).setI (indexSum s.i (s.reg x))).finished false) := rfl

theorem exec_ldF (x : Reg) :
    exec (.ldF x) s = .next (((s.fetched (encode (.ldF x))).setI (glyphAddr (s.reg x))).finished false) := rfl

theorem exec_ldVxDT (x : Reg) :
    exec (.ldVxDT x) s = .next (((s.fetched (encode (.ldVxDT x))).setReg x s.dt).finished false) := rfl

theorem exec_ldDTVx (x : Reg) :
    exec (.ldDTVx x) s = .next (((s.fetched (encode (.ldDTVx x))).setDT (s.reg x)).finished false) := rfl

theorem exec_ldSTVx (x : Reg) :
    exec (.ldSTVx x) s = .next (((s.fetched (encode (.ldSTVx x))).setST (s.reg x)).finished false) := rfl

theorem exec_unrecognised (w : Word) : exec (.unrecognised w) s = .next ((s.fetched w).finished false) := rfl

theorem exec_ldVxK_wait (x : Reg) (h : s.keysIn = 0) :
    exec (.ldVxK x) s = .next ((s.fetched (encode (.ldVxK x))).waitForKey.finished false) := by
  unfold exec execLdVxK
  exact execute_ok (by simp [firstKey_none.mpr h])

theorem exec_ldVxK_key (x : Reg) {k : Nat} (h : firstKey s.keysIn = some k) :
    exec (.ldVxK x) s = .next (((s.fetched (encode (.ldVxK x))).setReg x (BitVec.ofNat 8 k)).finished false) := by
  unfold exec execLdVxK
  exact execute_ok (by simp [h])

/-! ### Instructions that can raise a fault -/

theorem exec_ret_ok (h : s.sp.val ≠ 0) : exec .ret s = .next (State.finished (State.jump
    { s.fetched (encode .ret) with sp := ⟨s.sp.val - 1, by omega⟩ } (s.stack[s.sp.val - 1]'(by omega))) false) := by
  unfold exec execRet
  exact execute_ok (by rw [State.pop_ok _ (by exact h)]; rfl)

theorem exec_ret_fault (h : s.sp.val = 0) : exec .ret s = .next (s.takeFault .stackUnderflow (encode .ret)) := by
  unfold exec execRet
  exact execute_error (by rw [State.pop_error _ (by exact h)])

theorem exec_call_ok (nnn : Addr) (h : s.sp.val < 16) : exec (.call nnn) s = .next (State.finished (State.jump
    { s.fetched (encode (.call nnn)) with
      stack := s.stack.set s.sp.val (s.pc + 2), sp := ⟨s.sp.val + 1, Nat.succ_lt_succ h⟩ } (addrWord nnn)) false) := by
  unfold exec execCall
  exact execute_ok (by rw [State.push_ok _ _ (by exact h)]; rfl)

theorem exec_call_fault (nnn : Addr) (h : s.sp.val = 16) :
    exec (.call nnn) s = .next (s.takeFault .stackOverflow (encode (.call nnn))) := by
  unfold exec execCall
  exact execute_error (by rw [State.push_error _ _ (by exact h)])

theorem exec_skp_ok (x : Reg) (h : (s.reg x).toNat < 16) : exec (.skp x) s = .next (((s.fetched (encode (.skp x))).skipIf
    (s.keysIn.getLsbD (s.reg x).toNat)).finished false) := by
  unfold exec execSkp
  exact execute_ok (by simp [keyIndex_ok h])

theorem exec_skp_fault (x : Reg) (h : 16 ≤ (s.reg x).toNat) :
    exec (.skp x) s = .next (s.takeFault (.keyIndexOutOfRange (s.reg x)) (encode (.skp x))) := by
  unfold exec execSkp
  exact execute_error (by simp [keyIndex_error h])

theorem exec_sknp_ok (x : Reg) (h : (s.reg x).toNat < 16) : exec (.sknp x) s = .next (((s.fetched (encode (.sknp x))).skipIf
    (!s.keysIn.getLsbD (s.reg x).toNat)).finished false) := by
  unfold exec execSknp
  exact execute_ok (by simp [keyIndex_ok h])

theorem exec_sknp_fault (x : Reg) (h : 16 ≤ (s.reg x).toNat) :
    exec (.sknp x) s = .next (s.takeFault (.keyIndexOutOfRange (s.reg x)) (encode (.sknp x))) := by
  unfold exec execSknp
  exact execute_error (by simp [keyIndex_error h])

theorem exec_ldB_ok (x : Reg) (h : s.i.toNat + 2 ≤ 0xFFF) : exec (.ldB x) s = .next (State.finished
    { s.fetched (encode (.ldB x)) with mem := s.mem.writeAll s.i.toNat (decimalDigits (s.reg x)) } false) := by
  unfold exec execLdB
  exact execute_ok (State.memWrites_ok _ (by simp [decimalDigits]; omega))

theorem exec_ldB_fault (x : Reg) (h : 0xFFF < s.i.toNat + 2) :
    exec (.ldB x) s = .next (s.takeFault (.memoryOutOfBounds .write (max s.i.toNat 0x1000)) (encode (.ldB x))) := by
  unfold exec execLdB
  exact execute_error (State.memWrites_error _ (by simp [decimalDigits]) (by simp [decimalDigits]; omega))

theorem exec_ldStore_ok (x : Reg) (h : s.i.toNat + x.val ≤ 0xFFF) : exec (.ldStore x) s = .next (State.finished
    { s.fetched (encode (.ldStore x)) with mem := s.mem.writeAll s.i.toNat (s.regsTo x) } false) := by
  unfold exec execLdStore
  exact execute_ok (State.memWrites_ok _ (by simp; omega))

theorem exec_ldStore_fault (x : Reg) (h : 0xFFF < s.i.toNat + x.val) :
    exec (.ldStore x) s = .next (s.takeFault (.memoryOutOfBounds .write (max s.i.toNat 0x1000)) (encode (.ldStore x))) := by
  unfold exec execLdStore
  exact execute_error (State.memWrites_error _ (by rw [← List.length_pos_iff]; simp) (by simp; omega))

theorem exec_ldLoad_ok (x : Reg) (h : s.i.toNat + x.val ≤ 0xFFF) : exec (.ldLoad x) s = .next (((s.fetched (encode (.ldLoad x))).setRegs
    ((List.range (x.val + 1)).map (fun k => s.mem.read (s.i.toNat + k)))).finished false) := by
  unfold exec execLdLoad
  exact execute_ok (by simp only [State.effAddr_fetched]; rw [State.memReads_ok _ (by omega)]; rfl)

theorem exec_ldLoad_fault (x : Reg) (h : 0xFFF < s.i.toNat + x.val) :
    exec (.ldLoad x) s = .next (s.takeFault (.memoryOutOfBounds .read (max s.i.toNat 0x1000)) (encode (.ldLoad x))) := by
  unfold exec execLdLoad
  exact execute_error (by simp only [State.effAddr_fetched]; rw [State.memReads_error _ (by omega) (by omega)]; rfl)

theorem exec_drw_ok (x y : Reg) (n : Fin 16) (h : s.i.toNat + n.val ≤ 0x1000 ∨ n.val = 0) :
    exec (.drw x y n) s = .next (((s.fetched (encode (.drw x y n))).drawSprite ((s.reg x).toNat % 64) ((s.reg y).toNat % 32)
      ((List.range n.val).map (fun k => s.mem.read (s.i.toNat + k)))).finished true) := by
  unfold exec execDrw
  exact execute_ok (by
    simp only [State.effAddr_fetched]
    rcases h with h | h
    · rw [State.memReads_ok _ (by omega)]; rfl
    · rw [h]; rfl)

theorem exec_drw_fault (x y : Reg) (n : Fin 16) (hn : 0 < n.val) (h : 0x1000 < s.i.toNat + n.val) :
    exec (.drw x y n) s = .next (s.takeFault (.memoryOutOfBounds .read (max s.i.toNat 0x1000)) (encode (.drw x y n))) := by
  unfold exec execDrw
  exact execute_error (by simp only [State.effAddr_fetched]; rw [State.memReads_error _ hn (by omega)]; rfl)

/-! ### The display -/

/-- A sprite of at most 15 rows inverts exactly the cells it covers, and hits exactly where one of them was set (R124, R125). -/
theorem drawSprite_spec (x0 y0 : Nat) (rows : List Byte) (hr : rows.length ≤ 15) :
    (∀ c < 2048, (s.drawSprite x0 y0 rows).disp.getLsbD c ≠ s.disp.getLsbD c ↔ covered x0 y0 rows c) ∧
    ((toggleAll s.disp false (spriteCells x0 y0 rows)).2 = true ↔
      ∃ c < 2048, s.disp.getLsbD c = true ∧ covered x0 y0 rows c) := by
  obtain ⟨h1, h2⟩ := toggleAll_spec s.disp false (spriteCells x0 y0 rows) (nodup_spriteCells hr)
  have hcov : ∀ c, c ∈ (spriteCells x0 y0 rows).map (· % 2048) ↔ covered x0 y0 rows c := by
    intro c
    simp only [List.mem_map, mem_spriteCells, covered]
    constructor
    · rintro ⟨j, ⟨r, k, hr, hk, hb, rfl⟩, rfl⟩; exact ⟨r, k, hr, hk, hb, rfl⟩
    · rintro ⟨r, k, hr, hk, hb, rfl⟩; exact ⟨_, ⟨r, k, hr, hk, hb, rfl⟩, rfl⟩
  refine ⟨fun c hc => ?_, ?_⟩
  · rw [← hcov]
    simp only [State.drawSprite, State.setReg_disp, h1 c hc]
    by_cases hm : c ∈ (spriteCells x0 y0 rows).map (· % 2048) <;> simp [hm]
  · rw [h2]
    constructor
    · rintro (h | ⟨j, hj, hd⟩)
      · cases h
      · exact ⟨j % 2048, Nat.mod_lt _ (by omega), hd, (hcov _).mp (List.mem_map_of_mem hj)⟩
    · rintro ⟨c, _, hd, hc⟩
      obtain ⟨j, hj, rfl⟩ := List.mem_map.mp ((hcov c).mpr hc)
      exact .inr ⟨j, hj, hd⟩

/-! ### The step -/

theorem coreStep_faulted (h : s.fault.kind ≠ .none) : coreStep s = .next { s with reply := .fault s.fault } := by
  simp [coreStep, State.faulted_eq_true s |>.mpr h]

theorem coreStep_before_load (h : s.fault.kind = .none) (hl : s.loaded = false) : coreStep s = .refused .stepBeforeLoad := by
  simp [coreStep, State.faulted_eq_false s |>.mpr h, hl]

theorem coreStep_fetch {w : Word} (h : s.fault.kind = .none) (hl : s.loaded = true) (hw : s.fetch16 s.pc.toNat = .ok w) :
    coreStep s = exec (decode w) s := by
  simp [coreStep, State.faulted_eq_false s |>.mpr h, hl, hw]

theorem coreStep_fetch_fault {f : Fault} (h : s.fault.kind = .none) (hl : s.loaded = true)
    (hw : s.fetch16 s.pc.toNat = .error f) : coreStep s = .next (s.takeFault f 0) := by
  simp [coreStep, State.faulted_eq_false s |>.mpr h, hl, hw]

/-- What a step operation that answers a next state has done (R80, R81, R89). -/
theorem coreStep_cases {s t : State} (h : coreStep s = .next t) :
    (s.fault.kind ≠ .none ∧ t = { s with reply := .fault s.fault }) ∨
    (s.fault.kind = .none ∧ s.loaded = true ∧ ∃ f, s.fetch16 s.pc.toNat = .error f ∧ t = s.takeFault f 0) ∨
    (s.fault.kind = .none ∧ s.loaded = true ∧ ∃ w, s.fetch16 s.pc.toNat = .ok w ∧ exec (decode w) s = .next t) := by
  by_cases hf : s.fault.kind = .none
  · cases hl : s.loaded with
    | false => rw [coreStep_before_load s hf hl] at h; cases h
    | true =>
      cases hw : s.fetch16 s.pc.toNat with
      | error f =>
        rw [coreStep_fetch_fault s hf hl hw] at h
        exact .inr (.inl ⟨hf, rfl, f, rfl, by injection h with h; exact h.symm⟩)
      | ok w =>
        rw [coreStep_fetch s hf hl hw] at h
        exact .inr (.inr ⟨hf, rfl, w, rfl, h⟩)
  · rw [coreStep_faulted s hf] at h
    exact .inl ⟨hf, by injection h with h; exact h.symm⟩

/-- What a load that answers a next state has done (R52). -/
theorem load_cases {s t : State} {rom : List Byte} (h : s.load rom = .next t) :
    s.fault.kind = .none ∧ s.loaded = false ∧
    ((0xE00 < rom.length ∧ t = s.takeFault (.romTooLarge rom.length) 0) ∨
     (rom.length ≤ 0xE00 ∧ t = { s with mem := s.mem.writeAll 0x200 rom, loaded := true, reply := .loadOk })) := by
  by_cases hf : s.fault.kind = .none
  · cases hl : s.loaded with
    | true => simp [State.load, hl] at h
    | false =>
      refine ⟨hf, rfl, ?_⟩
      simp only [State.load, State.faulted_eq_false s |>.mpr hf, hl, Bool.or_self, Bool.false_eq_true, if_false,
        Config.romMax, Config.progBase] at h
      by_cases hr : rom.length > 3584
      · rw [if_pos hr] at h; injection h with h; exact .inl ⟨hr, h.symm⟩
      · rw [if_neg hr] at h; injection h with h; exact .inr ⟨by omega, h.symm⟩
  · simp [State.load, State.faulted_eq_true s |>.mpr hf] at h

end Sys2Proof.Machine
end

