-- ==== Sys2Proof/Laws/Cases.lean ====
section
/-! SUPPORT. What a step can do, said once: every completed form of every instruction and every fault an instruction raises, with the
condition of each. A claim about every instruction is a case analysis of these. -/

namespace Sys2Proof.Machine

/-- The state t is what the instruction leaves when it completes from s: one case per form, with the condition under which the form
completes. -/
inductive Completes : Instr → State → State → Prop where
  | cls s : Completes .cls s (State.finished { s.fetched (encode .cls) with disp := 0 } true)
  | ret s (h : s.sp.val ≠ 0) : Completes .ret s (State.finished (State.jump
      { s.fetched (encode .ret) with sp := ⟨s.sp.val - 1, by omega⟩ } (s.stack[s.sp.val - 1]'(by omega))) false)
  | jp s nnn : Completes (.jp nnn) s (((s.fetched (encode (.jp nnn))).jump (addrWord nnn)).finished false)
  | call s nnn (h : s.sp.val < 16) : Completes (.call nnn) s (State.finished (State.jump
      { s.fetched (encode (.call nnn)) with
        stack := s.stack.set s.sp.val (s.pc + 2), sp := ⟨s.sp.val + 1, Nat.succ_lt_succ h⟩ } (addrWord nnn)) false)
  | seImm s x nn : Completes (.seImm x nn) s (((s.fetched (encode (.seImm x nn))).skipIf (s.reg x == nn)).finished false)
  | sneImm s x nn : Completes (.sneImm x nn) s (((s.fetched (encode (.sneImm x nn))).skipIf (s.reg x != nn)).finished false)
  | seReg s x y : Completes (.seReg x y) s (((s.fetched (encode (.seReg x y))).skipIf (s.reg x == s.reg y)).finished false)
  | ldImm s x nn : Completes (.ldImm x nn) s (((s.fetched (encode (.ldImm x nn))).setReg x nn).finished false)
  | addImm s x nn : Completes (.addImm x nn) s (((s.fetched (encode (.addImm x nn))).setReg x (sumByte (s.reg x) nn)).finished false)
  | ldReg s x y : Completes (.ldReg x y) s (((s.fetched (encode (.ldReg x y))).setReg x (s.reg y)).finished false)
  | orReg s x y : Completes (.orReg x y) s (((s.fetched (encode (.orReg x y))).setReg x (s.reg x ||| s.reg y)).finished false)
  | andReg s x y : Completes (.andReg x y) s (((s.fetched (encode (.andReg x y))).setReg x (s.reg x &&& s.reg y)).finished false)
  | xorReg s x y : Completes (.xorReg x y) s (((s.fetched (encode (.xorReg x y))).setReg x (s.reg x ^^^ s.reg y)).finished false)
  | addReg s x y : Completes (.addReg x y) s (((s.fetched (encode (.addReg x y))).setRegFlag x
      (sumByte (s.reg x) (s.reg y)) (carry (s.reg x) (s.reg y))).finished false)
  | sub s x y : Completes (.sub x y) s (((s.fetched (encode (.sub x y))).setRegFlag x
      (diffByte (s.reg x) (s.reg y)) (noBorrow (s.reg x) (s.reg y))).finished false)
  | shr s x y : Completes (.shr x y) s (((s.fetched (encode (.shr x y))).setRegFlag x
      (shiftRightByte (s.reg x)) (lowBit (s.reg x))).finished false)
  | subn s x y : Completes (.subn x y) s (((s.fetched (encode (.subn x y))).setRegFlag x
      (diffByte (s.reg y) (s.reg x)) (noBorrow (s.reg y) (s.reg x))).finished false)
  | shl s x y : Completes (.shl x y) s (((s.fetched (encode (.shl x y))).setRegFlag x
      (shiftLeftByte (s.reg x)) (highBit (s.reg x))).finished false)
  | sneReg s x y : Completes (.sneReg x y) s (((s.fetched (encode (.sneReg x y))).skipIf (s.reg x != s.reg y)).finished false)
  | ldI s nnn : Completes (.ldI nnn) s (((s.fetched (encode (.ldI nnn))).setI (addrWord nnn)).finished false)
  | jpV0 s nnn : Completes (.jpV0 nnn) s (((s.fetched (encode (.jpV0 nnn))).jump (jumpV0Target nnn (s.reg 0))).finished false)
  | rnd s x nn : Completes (.rnd x nn) s (((s.fetched (encode (.rnd x nn))).drawByte.2.setReg x
      (Config.randomByte s.draws &&& nn)).finished false)
  | drw s x y n (h : s.i.toNat + n.val ≤ 0x1000 ∨ n.val = 0) : Completes (.drw x y n) s
      (((s.fetched (encode (.drw x y n))).drawSprite ((s.reg x).toNat % 64) ((s.reg y).toNat % 32) ((List.range n.val).map (fun k => s.mem.read (s.i.toNat + k)))).finished true)
  | skp s x (h : (s.reg x).toNat < 16) : Completes (.skp x) s (((s.fetched (encode (.skp x))).skipIf
      (s.keysIn.getLsbD (s.reg x).toNat)).finished false)
  | sknp s x (h : (s.reg x).toNat < 16) : Completes (.sknp x) s (((s.fetched (encode (.sknp x))).skipIf
      (!s.keysIn.getLsbD (s.reg x).toNat)).finished false)
  | ldVxDT s x : Completes (.ldVxDT x) s (((s.fetched (encode (.ldVxDT x))).setReg x s.dt).finished false)
  | wait s x (h : s.keysIn = 0) : Completes (.ldVxK x) s ((s.fetched (encode (.ldVxK x))).waitForKey.finished false)
  | key s x k (h : firstKey s.keysIn = some k) : Completes (.ldVxK x) s
      (((s.fetched (encode (.ldVxK x))).setReg x (BitVec.ofNat 8 k)).finished false)
  | ldDTVx s x : Completes (.ldDTVx x) s (((s.fetched (encode (.ldDTVx x))).setDT (s.reg x)).finished false)
  | ldSTVx s x : Completes (.ldSTVx x) s (((s.fetched (encode (.ldSTVx x))).setST (s.reg x)).finished false)
  | addI s x : Completes (.addI x) s (((s.fetched (encode (.addI x))).setI (indexSum s.i (s.reg x))).finished false)
  | ldF s x : Completes (.ldF x) s (((s.fetched (encode (.ldF x))).setI (glyphAddr (s.reg x))).finished false)
  | ldB s x (h : s.i.toNat + 2 ≤ 0xFFF) : Completes (.ldB x) s (State.finished
      { s.fetched (encode (.ldB x)) with mem := s.mem.writeAll s.i.toNat (decimalDigits (s.reg x)) } false)
  | ldStore s x (h : s.i.toNat + x.val ≤ 0xFFF) : Completes (.ldStore x) s (State.finished
      { s.fetched (encode (.ldStore x)) with mem := s.mem.writeAll s.i.toNat (s.regsTo x) } false)
  | ldLoad s x (h : s.i.toNat + x.val ≤ 0xFFF) : Completes (.ldLoad x) s (((s.fetched (encode (.ldLoad x))).setRegs
      ((List.range (x.val + 1)).map (fun k => s.mem.read (s.i.toNat + k)))).finished false)
  | unrecognised s w : Completes (.unrecognised w) s ((s.fetched w).finished false)

/-- The instruction raises the fault from s: one case per instruction of R138 that raises one, with its condition. -/
inductive Raises : Instr → State → Fault → Prop where
  | ret s : s.sp.val = 0 → Raises .ret s .stackUnderflow
  | call s nnn : s.sp.val = 16 → Raises (.call nnn) s .stackOverflow
  | skp s x : 16 ≤ (s.reg x).toNat → Raises (.skp x) s (.keyIndexOutOfRange (s.reg x))
  | sknp s x : 16 ≤ (s.reg x).toNat → Raises (.sknp x) s (.keyIndexOutOfRange (s.reg x))
  | ldB s x : 0xFFF < s.i.toNat + 2 → Raises (.ldB x) s (.memoryOutOfBounds .write (max s.i.toNat 0x1000))
  | ldStore s x : 0xFFF < s.i.toNat + x.val → Raises (.ldStore x) s (.memoryOutOfBounds .write (max s.i.toNat 0x1000))
  | ldLoad s x : 0xFFF < s.i.toNat + x.val → Raises (.ldLoad x) s (.memoryOutOfBounds .read (max s.i.toNat 0x1000))
  | drw s x y n : 0 < n.val → 0x1000 < s.i.toNat + n.val → Raises (.drw x y n) s (.memoryOutOfBounds .read (max s.i.toNat 0x1000))

/-- What `exec` can answer: the instruction completes, or the fault it raises is taken on the state as it was. -/
theorem exec_cases {i : Instr} {s t : State} (h : exec i s = .next t) :
   Completes i s t ∨ ∃ f, Raises i s f ∧ t = s.takeFault f (encode i) := by
  have inj : ∀ {a b : State}, (Host.Outcome.next a : Host.Outcome State Machine.Fault Refusal) = .next b → b = a := by
    intro a b h; injection h with h; exact h.symm
  cases i with
  | cls => obtain rfl := inj h; exact .inl (.cls s)
  | ret =>
    by_cases h0 : s.sp.val = 0
    · rw [exec_ret_fault s h0] at h; exact .inr ⟨_, .ret s h0, inj h⟩
    · rw [exec_ret_ok s h0] at h; obtain rfl := inj h; exact .inl (.ret s h0)
  | jp nnn => obtain rfl := inj h; exact .inl (.jp s nnn)
  | call nnn =>
    by_cases h0 : s.sp.val < 16
    · rw [exec_call_ok s _ h0] at h; obtain rfl := inj h; exact .inl (.call s _ h0)
    · have h1 : s.sp.val = 16 := by omega
      rw [exec_call_fault s _ h1] at h; exact .inr ⟨_, .call s _ h1, inj h⟩
  | seImm x nn => obtain rfl := inj h; exact .inl (.seImm ..)
  | sneImm x nn => obtain rfl := inj h; exact .inl (.sneImm ..)
  | seReg x y => obtain rfl := inj h; exact .inl (.seReg ..)
  | ldImm x nn => obtain rfl := inj h; exact .inl (.ldImm ..)
  | addImm x nn => obtain rfl := inj h; exact .inl (.addImm ..)
  | ldReg x y => obtain rfl := inj h; exact .inl (.ldReg ..)
  | orReg x y => obtain rfl := inj h; exact .inl (.orReg ..)
  | andReg x y => obtain rfl := inj h; exact .inl (.andReg ..)
  | xorReg x y => obtain rfl := inj h; exact .inl (.xorReg ..)
  | addReg x y => obtain rfl := inj h; exact .inl (.addReg ..)
  | sub x y => obtain rfl := inj h; exact .inl (.sub ..)
  | shr x y => obtain rfl := inj h; exact .inl (.shr ..)
  | subn x y => obtain rfl := inj h; exact .inl (.subn ..)
  | shl x y => obtain rfl := inj h; exact .inl (.shl ..)
  | sneReg x y => obtain rfl := inj h; exact .inl (.sneReg ..)
  | ldI nnn => obtain rfl := inj h; exact .inl (.ldI ..)
  | jpV0 nnn => obtain rfl := inj h; exact .inl (.jpV0 ..)
  | rnd x nn => obtain rfl := inj h; exact .inl (.rnd ..)
  | drw x y n =>
    by_cases h0 : s.i.toNat + n.val ≤ 0x1000 ∨ n.val = 0
    · rw [exec_drw_ok s _ _ _ h0] at h; obtain rfl := inj h; exact .inl (.drw s _ _ _ h0)
    · rw [exec_drw_fault s _ _ _ (by omega) (by omega)] at h; exact .inr ⟨_, .drw s _ _ _ (by omega) (by omega), inj h⟩
  | skp x =>
    by_cases h0 : (s.reg x).toNat < 16
    · rw [exec_skp_ok s _ h0] at h; obtain rfl := inj h; exact .inl (.skp s _ h0)
    · rw [exec_skp_fault s _ (by omega)] at h; exact .inr ⟨_, .skp s _ (by omega), inj h⟩
  | sknp x =>
    by_cases h0 : (s.reg x).toNat < 16
    · rw [exec_sknp_ok s _ h0] at h; obtain rfl := inj h; exact .inl (.sknp s _ h0)
    · rw [exec_sknp_fault s _ (by omega)] at h; exact .inr ⟨_, .sknp s _ (by omega), inj h⟩
  | ldVxDT x => obtain rfl := inj h; exact .inl (.ldVxDT ..)
  | ldVxK x =>
    cases hk : firstKey s.keysIn with
    | none => rw [exec_ldVxK_wait s _ (firstKey_none.mp hk)] at h; obtain rfl := inj h; exact .inl (.wait s _ (firstKey_none.mp hk))
    | some k => rw [exec_ldVxK_key s _ hk] at h; obtain rfl := inj h; exact .inl (.key s _ _ hk)
  | ldDTVx x => obtain rfl := inj h; exact .inl (.ldDTVx ..)
  | ldSTVx x => obtain rfl := inj h; exact .inl (.ldSTVx ..)
  | addI x => obtain rfl := inj h; exact .inl (.addI ..)
  | ldF x => obtain rfl := inj h; exact .inl (.ldF ..)
  | ldB x =>
    by_cases h0 : s.i.toNat + 2 ≤ 0xFFF
    · rw [exec_ldB_ok s _ h0] at h; obtain rfl := inj h; exact .inl (.ldB s _ h0)
    · rw [exec_ldB_fault s _ (by omega)] at h; exact .inr ⟨_, .ldB s _ (by omega), inj h⟩
  | ldStore x =>
    by_cases h0 : s.i.toNat + x.val ≤ 0xFFF
    · rw [exec_ldStore_ok s _ h0] at h; obtain rfl := inj h; exact .inl (.ldStore s _ h0)
    · rw [exec_ldStore_fault s _ (by omega)] at h; exact .inr ⟨_, .ldStore s _ (by omega), inj h⟩
  | ldLoad x =>
    by_cases h0 : s.i.toNat + x.val ≤ 0xFFF
    · rw [exec_ldLoad_ok s _ h0] at h; obtain rfl := inj h; exact .inl (.ldLoad s _ h0)
    · rw [exec_ldLoad_fault s _ (by omega)] at h; exact .inr ⟨_, .ldLoad s _ (by omega), inj h⟩
  | unrecognised w => obtain rfl := inj h; exact .inl (.unrecognised ..)

/-- A step that records no fault has completed its instruction. -/
theorem exec_completes {i : Instr} {s t : State} (h : exec i s = .next t) (ht : t.fault.kind = .none) : Completes i s t := by
  rcases exec_cases h with h | ⟨f, _, rfl⟩
  · exact h
  · exact absurd ht f.kind_ne_none

end Sys2Proof.Machine
end

