-- ==== Sys2Proof/Laws/Decode.lean ====
section
/-! SUPPORT. The fields of an encoded word (R66, R68), the rows of the table as conditions on fields (R69), and the re-encoding of a
decoded word. -/

namespace Sys2Proof

/-! ### The fields as numbers (R66) -/

theorem opField_toNat (w : Word) : (opField w).toNat = w.toNat / 0x1000 := by
  have := w.isLt
  simp [opField, Nat.shiftRight_eq_div_pow]; omega

theorem xField_val (w : Word) : (xField w).val = w.toNat / 0x100 % 0x10 := by
  simp [xField, Nat.shiftRight_eq_div_pow]

theorem yField_val (w : Word) : (yField w).val = w.toNat / 0x10 % 0x10 := by
  simp [yField, Nat.shiftRight_eq_div_pow]

theorem nField_val (w : Word) : (nField w).val = w.toNat % 0x10 := by
  simp [nField]

theorem nnField_toNat (w : Word) : (nnField w).toNat = w.toNat % 0x100 := by
  simp [nnField]

theorem nnnField_toNat (w : Word) : (nnnField w).toNat = w.toNat % 0x1000 := by
  simp [nnnField]

/-! ### The layouts as numbers (R68) -/

theorem encNNN_toNat (o : BitVec 4) (a : Addr) : (encNNN o a).toNat = o.toNat * 0x1000 + a.toNat := by
  have h1 := o.isLt; have h2 := a.isLt
  simp only [encNNN, BitVec.toNat_ofNat]; omega

theorem encXNN_toNat (o : BitVec 4) (x : Reg) (b : Byte) :
    (encXNN o x b).toNat = o.toNat * 0x1000 + x.val * 0x100 + b.toNat := by
  have h1 := o.isLt; have h2 := x.isLt; have h3 := b.isLt
  simp only [encXNN, BitVec.toNat_ofNat]; omega

theorem encXYN_toNat (o : BitVec 4) (x y n : Fin 16) :
    (encXYN o x y n).toNat = o.toNat * 0x1000 + x.val * 0x100 + y.val * 0x10 + n.val := by
  have h1 := o.isLt; have h2 := x.isLt; have h3 := y.isLt; have h4 := n.isLt
  simp only [encXYN, BitVec.toNat_ofNat]; omega

/-! ### The fields of an encoded word -/

@[simp] theorem opField_encNNN (o : BitVec 4) (a : Addr) : opField (encNNN o a) = o := by
  have h1 := o.isLt; have h2 := a.isLt
  apply BitVec.eq_of_toNat_eq; rw [opField_toNat, encNNN_toNat]; omega

@[simp] theorem nnnField_encNNN (o : BitVec 4) (a : Addr) : nnnField (encNNN o a) = a := by
  have h1 := o.isLt; have h2 := a.isLt
  apply BitVec.eq_of_toNat_eq; rw [nnnField_toNat, encNNN_toNat]; omega

@[simp] theorem opField_encXNN (o : BitVec 4) (x : Reg) (b : Byte) : opField (encXNN o x b) = o := by
  have h1 := o.isLt; have h2 := x.isLt; have h3 := b.isLt
  apply BitVec.eq_of_toNat_eq; rw [opField_toNat, encXNN_toNat]; omega

@[simp] theorem xField_encXNN (o : BitVec 4) (x : Reg) (b : Byte) : xField (encXNN o x b) = x := by
  have h1 := o.isLt; have h2 := x.isLt; have h3 := b.isLt
  apply Fin.ext; rw [xField_val, encXNN_toNat]; omega

@[simp] theorem nnField_encXNN (o : BitVec 4) (x : Reg) (b : Byte) : nnField (encXNN o x b) = b := by
  have h1 := o.isLt; have h2 := x.isLt; have h3 := b.isLt
  apply BitVec.eq_of_toNat_eq; rw [nnField_toNat, encXNN_toNat]; omega

@[simp] theorem opField_encXYN (o : BitVec 4) (x y n : Fin 16) : opField (encXYN o x y n) = o := by
  have h1 := o.isLt; have h2 := x.isLt; have h3 := y.isLt; have h4 := n.isLt
  apply BitVec.eq_of_toNat_eq; rw [opField_toNat, encXYN_toNat]; omega

@[simp] theorem xField_encXYN (o : BitVec 4) (x y n : Fin 16) : xField (encXYN o x y n) = x := by
  have h1 := o.isLt; have h2 := x.isLt; have h3 := y.isLt; have h4 := n.isLt
  apply Fin.ext; rw [xField_val, encXYN_toNat]; omega

@[simp] theorem yField_encXYN (o : BitVec 4) (x y n : Fin 16) : yField (encXYN o x y n) = y := by
  have h1 := o.isLt; have h2 := x.isLt; have h3 := y.isLt; have h4 := n.isLt
  apply Fin.ext; rw [yField_val, encXYN_toNat]; omega

@[simp] theorem nField_encXYN (o : BitVec 4) (x y n : Fin 16) : nField (encXYN o x y n) = n := by
  have h1 := o.isLt; have h2 := x.isLt; have h3 := y.isLt; have h4 := n.isLt
  apply Fin.ext; rw [nField_val, encXYN_toNat]; omega

/-! ### Every word is the layout of its own fields -/

theorem encNNN_of_op {w : Word} {o : BitVec 4} (h : opField w = o) : encNNN o (nnnField w) = w := by
  subst h; apply BitVec.eq_of_toNat_eq; rw [encNNN_toNat, opField_toNat, nnnField_toNat]; omega

theorem encXNN_of_op {w : Word} {o : BitVec 4} (h : opField w = o) : encXNN o (xField w) (nnField w) = w := by
  subst h; apply BitVec.eq_of_toNat_eq; rw [encXNN_toNat, opField_toNat, xField_val, nnField_toNat]; omega

theorem encXNN_of_fields {w : Word} {o : BitVec 4} {b : Byte} (h : opField w = o) (hb : nnField w = b) :
    encXNN o (xField w) b = w := hb ▸ encXNN_of_op h

theorem encXYN_of_op {w : Word} {o : BitVec 4} (h : opField w = o) : encXYN o (xField w) (yField w) (nField w) = w := by
  subst h; apply BitVec.eq_of_toNat_eq; rw [encXYN_toNat, opField_toNat, xField_val, yField_val, nField_val]; omega

theorem encXYN_of_fields {w : Word} {o : BitVec 4} {n : Fin 16} (h : opField w = o) (hn : nField w = n) :
    encXYN o (xField w) (yField w) n = w := hn ▸ encXYN_of_op h

/-! ### Decoding and re-encoding a word -/

/-- The 16 op digits. -/
theorem op_cases (o : BitVec 4) : o = 0x0 ∨ o = 0x1 ∨ o = 0x2 ∨ o = 0x3 ∨ o = 0x4 ∨ o = 0x5 ∨ o = 0x6 ∨ o = 0x7 ∨ o = 0x8 ∨
    o = 0x9 ∨ o = 0xA ∨ o = 0xB ∨ o = 0xC ∨ o = 0xD ∨ o = 0xE ∨ o = 0xF := by
  revert o; decide

/-! The decoder, by the op digit (R69). -/

theorem decode_op0 {w : Word} (h : opField w = 0x0) : decode w = decode0 w := by simp [decode, h]

theorem decode_op1 {w : Word} (h : opField w = 0x1) : decode w = .jp (nnnField w) := by simp [decode, h]

theorem decode_op2 {w : Word} (h : opField w = 0x2) : decode w = .call (nnnField w) := by simp [decode, h]

theorem decode_op3 {w : Word} (h : opField w = 0x3) : decode w = .seImm (xField w) (nnField w) := by simp [decode, h]

theorem decode_op4 {w : Word} (h : opField w = 0x4) : decode w = .sneImm (xField w) (nnField w) := by simp [decode, h]

theorem decode_op5 {w : Word} (h : opField w = 0x5) : decode w = if nField w = 0 then .seReg (xField w) (yField w) else .unrecognised w := by simp [decode, h]

theorem decode_op6 {w : Word} (h : opField w = 0x6) : decode w = .ldImm (xField w) (nnField w) := by simp [decode, h]

theorem decode_op7 {w : Word} (h : opField w = 0x7) : decode w = .addImm (xField w) (nnField w) := by simp [decode, h]

theorem decode_op8 {w : Word} (h : opField w = 0x8) : decode w = decode8 w := by simp [decode, h]

theorem decode_op9 {w : Word} (h : opField w = 0x9) : decode w = if nField w = 0 then .sneReg (xField w) (yField w) else .unrecognised w := by simp [decode, h]

theorem decode_opA {w : Word} (h : opField w = 0xA) : decode w = .ldI (nnnField w) := by simp [decode, h]

theorem decode_opB {w : Word} (h : opField w = 0xB) : decode w = .jpV0 (nnnField w) := by simp [decode, h]

theorem decode_opC {w : Word} (h : opField w = 0xC) : decode w = .rnd (xField w) (nnField w) := by simp [decode, h]

theorem decode_opD {w : Word} (h : opField w = 0xD) : decode w = .drw (xField w) (yField w) (nField w) := by simp [decode, h]

theorem decode_opE {w : Word} (h : opField w = 0xE) : decode w = decodeE w := by simp [decode, h]

theorem decode_opF {w : Word} (h : opField w = 0xF) : decode w = decodeF w := by simp [decode, h]

theorem encode_decode0 (w : Word) : encode (decode0 w) = w := by
  unfold decode0; split_ifs with h0 h1
  · rw [h0]; rfl
  · rw [h1]; rfl
  · rfl

theorem encode_decode8 {w : Word} (h : opField w = 0x8) : encode (decode8 w) = w := by
  unfold decode8; split_ifs with a0 a1 a2 a3 a4 a5 a6 a7 a8
  · exact encXYN_of_fields h a0
  · exact encXYN_of_fields h a1
  · exact encXYN_of_fields h a2
  · exact encXYN_of_fields h a3
  · exact encXYN_of_fields h a4
  · exact encXYN_of_fields h a5
  · exact encXYN_of_fields h a6
  · exact encXYN_of_fields h a7
  · exact encXYN_of_fields h a8
  · rfl

theorem encode_decodeE {w : Word} (h : opField w = 0xE) : encode (decodeE w) = w := by
  unfold decodeE; split_ifs with a0 a1
  · exact encXNN_of_fields h a0
  · exact encXNN_of_fields h a1
  · rfl

theorem encode_decodeF {w : Word} (h : opField w = 0xF) : encode (decodeF w) = w := by
  unfold decodeF; split_ifs with a0 a1 a2 a3 a4 a5 a6 a7 a8
  · exact encXNN_of_fields h a0
  · exact encXNN_of_fields h a1
  · exact encXNN_of_fields h a2
  · exact encXNN_of_fields h a3
  · exact encXNN_of_fields h a4
  · exact encXNN_of_fields h a5
  · exact encXNN_of_fields h a6
  · exact encXNN_of_fields h a7
  · exact encXNN_of_fields h a8
  · rfl

/-- No bit of a word is lost: the decoded instruction encodes to the word (R66). -/
theorem encode_decode (w : Word) : encode (decode w) = w := by
  rcases op_cases (opField w) with h | h | h | h | h | h | h | h | h | h | h | h | h | h | h | h
  · rw [decode_op0 h]; exact encode_decode0 w
  · rw [decode_op1 h]; exact encNNN_of_op h
  · rw [decode_op2 h]; exact encNNN_of_op h
  · rw [decode_op3 h]; exact encXNN_of_op h
  · rw [decode_op4 h]; exact encXNN_of_op h
  · rw [decode_op5 h]; split
    · exact encXYN_of_fields h ‹_›
    · rfl
  · rw [decode_op6 h]; exact encXNN_of_op h
  · rw [decode_op7 h]; exact encXNN_of_op h
  · rw [decode_op8 h]; exact encode_decode8 h
  · rw [decode_op9 h]; split
    · exact encXYN_of_fields h ‹_›
    · rfl
  · rw [decode_opA h]; exact encNNN_of_op h
  · rw [decode_opB h]; exact encNNN_of_op h
  · rw [decode_opC h]; exact encXNN_of_op h
  · rw [decode_opD h]; exact encXYN_of_op h
  · rw [decode_opE h]; exact encode_decodeE h
  · rw [decode_opF h]; exact encode_decodeF h

/-! ### The masks of the table as conditions on fields (R69) -/

theorem and_F000 (w : Word) : (w &&& 0xF000#16).toNat = w.toNat / 0x1000 * 0x1000 := by
  rw [BitVec.toNat_and, show (0x1000 : Nat) = 2 ^ 12 by rfl]
  apply Nat.eq_of_testBit_eq; intro i
  rw [Nat.testBit_and, Nat.testBit_mul_two_pow, Nat.testBit_div_two_pow]
  have mask : ∀ j < 16, ((0xF000#16).toNat.testBit j) = decide (12 ≤ j) := by decide
  by_cases hi : i < 16
  · rw [mask i hi]
    by_cases h : 12 ≤ i
    · simp [h]
    · simp [h]
  · have hw : w.toNat.testBit i = false :=
      Nat.testBit_lt_two_pow (Nat.lt_of_lt_of_le w.isLt (Nat.pow_le_pow_right (by omega) (by omega)))
    rw [hw, Nat.sub_add_cancel (by omega), hw]; simp

theorem and_low (w : Word) (k : Nat) (hk : k ≤ 16) : (w &&& BitVec.ofNat 16 (2 ^ k - 1)).toNat = w.toNat % 2 ^ k := by
  have h1 : 2 ^ k ≤ 2 ^ 16 := Nat.pow_le_pow_right (by omega) hk
  have h2 : 0 < 2 ^ k := Nat.two_pow_pos k
  rw [BitVec.toNat_and, BitVec.toNat_ofNat, Nat.mod_eq_of_lt (by omega), Nat.and_two_pow_sub_one_eq_mod]

theorem and_F00F (w : Word) : (w &&& 0xF00F#16).toNat = w.toNat / 0x1000 * 0x1000 + w.toNat % 0x10 := by
  have := w.isLt
  have h : w &&& 0xF00F#16 = (w &&& 0xF000#16) + (w &&& 0xF#16) := by
    rw [BitVec.add_eq_or_of_and_eq_zero]
    · ext i hi; interval_cases i <;> simp
    · ext i hi; interval_cases i <;> simp
  rw [h, BitVec.toNat_add, and_F000, show (15#16) = BitVec.ofNat 16 (2 ^ 4 - 1) from rfl, and_low w 4 (by omega)]; omega

theorem and_F0FF (w : Word) : (w &&& 0xF0FF#16).toNat = w.toNat / 0x1000 * 0x1000 + w.toNat % 0x100 := by
  have := w.isLt
  have h : w &&& 0xF0FF#16 = (w &&& 0xF000#16) + (w &&& 0xFF#16) := by
    rw [BitVec.add_eq_or_of_and_eq_zero]
    · ext i hi; interval_cases i <;> simp
    · ext i hi; interval_cases i <;> simp
  rw [h, BitVec.toNat_add, and_F000, show (255#16) = BitVec.ofNat 16 (2 ^ 8 - 1) from rfl, and_low w 8 (by omega)]; omega

/-- A row that fixes the op digit. -/
theorem matches_F000 (o : BitVec 4) (w : Word) :
    (w &&& 0xF000#16 == BitVec.ofNat 16 (o.toNat * 0x1000)) = decide (opField w = o) := by
  have := o.isLt; have := w.isLt
  rw [Bool.eq_iff_iff, beq_iff_eq, decide_eq_true_iff, ← BitVec.toNat_inj, ← BitVec.toNat_inj, and_F000, opField_toNat,
    BitVec.toNat_ofNat]
  omega

/-- A row that fixes the op digit and the low digit. -/
theorem matches_F00F (o : BitVec 4) (n : Fin 16) (w : Word) :
    (w &&& 0xF00F#16 == BitVec.ofNat 16 (o.toNat * 0x1000 + n.val)) = decide (opField w = o ∧ nField w = n) := by
  have := o.isLt; have := w.isLt; have := n.isLt
  rw [Bool.eq_iff_iff, beq_iff_eq, decide_eq_true_iff, ← BitVec.toNat_inj, ← BitVec.toNat_inj, and_F00F, opField_toNat,
    BitVec.toNat_ofNat, Fin.ext_iff, nField_val]
  omega

/-- A row that fixes the op digit and the low byte. -/
theorem matches_F0FF (o : BitVec 4) (b : Byte) (w : Word) :
    (w &&& 0xF0FF#16 == BitVec.ofNat 16 (o.toNat * 0x1000 + b.toNat)) = decide (opField w = o ∧ nnField w = b) := by
  have := o.isLt; have := w.isLt; have := b.isLt
  rw [Bool.eq_iff_iff, beq_iff_eq, decide_eq_true_iff, ← BitVec.toNat_inj, ← BitVec.toNat_inj, ← BitVec.toNat_inj, and_F0FF,
    opField_toNat, BitVec.toNat_ofNat, nnField_toNat]
  omega

theorem matches_FFFF (b w : Word) : (w &&& 0xFFFF#16 == b) = decide (w = b) := by
  have h : w &&& 0xFFFF#16 = w := by
    have := and_low w 16 (by omega); have := w.isLt
    apply BitVec.eq_of_toNat_eq; simp_all
  rw [h, Bool.eq_iff_iff, beq_iff_eq, decide_eq_true_iff]

/-- Whether a row of the table matches, by the fields of the word (R69). -/
theorem recognised_eq (w : Word) : recognised w =
    ((decide (w = 0x00E0) || decide (w = 0x00EE) || decide (opField w = 0x1) || decide (opField w = 0x2) ||
      decide (opField w = 0x3) || decide (opField w = 0x4) || decide (opField w = 0x5 ∧ nField w = 0) ||
      decide (opField w = 0x6) || decide (opField w = 0x7)) ||
    (decide (opField w = 0x8 ∧ nField w = 0x0) || decide (opField w = 0x8 ∧ nField w = 0x1) ||
      decide (opField w = 0x8 ∧ nField w = 0x2) || decide (opField w = 0x8 ∧ nField w = 0x3) ||
      decide (opField w = 0x8 ∧ nField w = 0x4) || decide (opField w = 0x8 ∧ nField w = 0x5) ||
      decide (opField w = 0x8 ∧ nField w = 0x6) || decide (opField w = 0x8 ∧ nField w = 0x7) ||
      decide (opField w = 0x8 ∧ nField w = 0xE)) ||
    (decide (opField w = 0x9 ∧ nField w = 0) || decide (opField w = 0xA) || decide (opField w = 0xB) ||
      decide (opField w = 0xC) || decide (opField w = 0xD) || decide (opField w = 0xE ∧ nnField w = 0x9E) ||
      decide (opField w = 0xE ∧ nnField w = 0xA1)) ||
    (decide (opField w = 0xF ∧ nnField w = 0x07) || decide (opField w = 0xF ∧ nnField w = 0x0A) ||
      decide (opField w = 0xF ∧ nnField w = 0x15) || decide (opField w = 0xF ∧ nnField w = 0x18) ||
      decide (opField w = 0xF ∧ nnField w = 0x1E) || decide (opField w = 0xF ∧ nnField w = 0x29) ||
      decide (opField w = 0xF ∧ nnField w = 0x33) || decide (opField w = 0xF ∧ nnField w = 0x55) ||
      decide (opField w = 0xF ∧ nnField w = 0x65))) := by
  simp only [recognised, opcodeRows, List.any_append, List.any_cons, List.any_nil, Bool.or_false, Row.matches, Bool.or_assoc]
  rw [show (w &&& 0xFFFF == (0x00E0 : Word)) = decide (w = 0x00E0) from matches_FFFF _ w,
    show (w &&& 0xFFFF == (0x00EE : Word)) = decide (w = 0x00EE) from matches_FFFF _ w,
    show (w &&& 0xF000 == (0x1000 : Word)) = decide (opField w = 0x1) from matches_F000 0x1 w,
    show (w &&& 0xF000 == (0x2000 : Word)) = decide (opField w = 0x2) from matches_F000 0x2 w,
    show (w &&& 0xF000 == (0x3000 : Word)) = decide (opField w = 0x3) from matches_F000 0x3 w,
    show (w &&& 0xF000 == (0x4000 : Word)) = decide (opField w = 0x4) from matches_F000 0x4 w,
    show (w &&& 0xF000 == (0x6000 : Word)) = decide (opField w = 0x6) from matches_F000 0x6 w,
    show (w &&& 0xF000 == (0x7000 : Word)) = decide (opField w = 0x7) from matches_F000 0x7 w,
    show (w &&& 0xF000 == (0xA000 : Word)) = decide (opField w = 0xA) from matches_F000 0xA w,
    show (w &&& 0xF000 == (0xB000 : Word)) = decide (opField w = 0xB) from matches_F000 0xB w,
    show (w &&& 0xF000 == (0xC000 : Word)) = decide (opField w = 0xC) from matches_F000 0xC w,
    show (w &&& 0xF000 == (0xD000 : Word)) = decide (opField w = 0xD) from matches_F000 0xD w,
    show (w &&& 0xF00F == (0x5000 : Word)) = decide (opField w = 0x5 ∧ nField w = 0x0) from matches_F00F 0x5 0x0 w,
    show (w &&& 0xF00F == (0x9000 : Word)) = decide (opField w = 0x9 ∧ nField w = 0x0) from matches_F00F 0x9 0x0 w,
    show (w &&& 0xF00F == (0x8000 : Word)) = decide (opField w = 0x8 ∧ nField w = 0x0) from matches_F00F 0x8 0x0 w,
    show (w &&& 0xF00F == (0x8001 : Word)) = decide (opField w = 0x8 ∧ nField w = 0x1) from matches_F00F 0x8 0x1 w,
    show (w &&& 0xF00F == (0x8002 : Word)) = decide (opField w = 0x8 ∧ nField w = 0x2) from matches_F00F 0x8 0x2 w,
    show (w &&& 0xF00F == (0x8003 : Word)) = decide (opField w = 0x8 ∧ nField w = 0x3) from matches_F00F 0x8 0x3 w,
    show (w &&& 0xF00F == (0x8004 : Word)) = decide (opField w = 0x8 ∧ nField w = 0x4) from matches_F00F 0x8 0x4 w,
    show (w &&& 0xF00F == (0x8005 : Word)) = decide (opField w = 0x8 ∧ nField w = 0x5) from matches_F00F 0x8 0x5 w,
    show (w &&& 0xF00F == (0x8006 : Word)) = decide (opField w = 0x8 ∧ nField w = 0x6) from matches_F00F 0x8 0x6 w,
    show (w &&& 0xF00F == (0x8007 : Word)) = decide (opField w = 0x8 ∧ nField w = 0x7) from matches_F00F 0x8 0x7 w,
    show (w &&& 0xF00F == (0x800E : Word)) = decide (opField w = 0x8 ∧ nField w = 0xE) from matches_F00F 0x8 0xE w,
    show (w &&& 0xF0FF == (0xE09E : Word)) = decide (opField w = 0xE ∧ nnField w = 0x9E) from matches_F0FF 0xE 0x9E w,
    show (w &&& 0xF0FF == (0xE0A1 : Word)) = decide (opField w = 0xE ∧ nnField w = 0xA1) from matches_F0FF 0xE 0xA1 w,
    show (w &&& 0xF0FF == (0xF007 : Word)) = decide (opField w = 0xF ∧ nnField w = 0x07) from matches_F0FF 0xF 0x07 w,
    show (w &&& 0xF0FF == (0xF00A : Word)) = decide (opField w = 0xF ∧ nnField w = 0x0A) from matches_F0FF 0xF 0x0A w,
    show (w &&& 0xF0FF == (0xF015 : Word)) = decide (opField w = 0xF ∧ nnField w = 0x15) from matches_F0FF 0xF 0x15 w,
    show (w &&& 0xF0FF == (0xF018 : Word)) = decide (opField w = 0xF ∧ nnField w = 0x18) from matches_F0FF 0xF 0x18 w,
    show (w &&& 0xF0FF == (0xF01E : Word)) = decide (opField w = 0xF ∧ nnField w = 0x1E) from matches_F0FF 0xF 0x1E w,
    show (w &&& 0xF0FF == (0xF029 : Word)) = decide (opField w = 0xF ∧ nnField w = 0x29) from matches_F0FF 0xF 0x29 w,
    show (w &&& 0xF0FF == (0xF033 : Word)) = decide (opField w = 0xF ∧ nnField w = 0x33) from matches_F0FF 0xF 0x33 w,
    show (w &&& 0xF0FF == (0xF055 : Word)) = decide (opField w = 0xF ∧ nnField w = 0x55) from matches_F0FF 0xF 0x55 w,
    show (w &&& 0xF0FF == (0xF065 : Word)) = decide (opField w = 0xF ∧ nnField w = 0x65) from matches_F0FF 0xF 0x65 w]

theorem ne_00E0_of_op {w : Word} (h : opField w ≠ 0x0) : w ≠ 0x00E0 := by rintro rfl; exact h (by decide)

theorem ne_00EE_of_op {w : Word} (h : opField w ≠ 0x0) : w ≠ 0x00EE := by rintro rfl; exact h (by decide)

/-- A word no row matches decodes to the fallback (R71, R84). -/
theorem decode_of_not_recognised {w : Word} (hw : recognised w = false) : decode w = .unrecognised w := by
  rw [recognised_eq] at hw
  rcases op_cases (opField w) with h | h | h | h | h | h | h | h | h | h | h | h | h | h | h | h <;> simp [h] at hw
  · simp [decode_op0 h, decode0, hw]
  · simp [decode_op5 h, hw]
  · simp [decode_op8 h, decode8, hw]
  · simp [decode_op9 h, hw]
  · simp [decode_opE h, decodeE, hw]
  · simp [decode_opF h, decodeF, hw]

/-- What the decoder gives stands for a word: it calls a word unrecognised only where no row matches (R69, R71). -/
theorem wf_decode (w : Word) : (decode w).wf = true := by
  rcases op_cases (opField w) with h | h | h | h | h | h | h | h | h | h | h | h | h | h | h | h
  · rw [decode_op0 h, decode0]; split_ifs <;> simp_all [Instr.wf, recognised_eq]
  · rw [decode_op1 h]; rfl
  · rw [decode_op2 h]; rfl
  · rw [decode_op3 h]; rfl
  · rw [decode_op4 h]; rfl
  · have e := ne_00E0_of_op (w := w) (by simp [h]); have f := ne_00EE_of_op (w := w) (by simp [h])
    rw [decode_op5 h]; split_ifs <;> simp_all [Instr.wf, recognised_eq]
  · rw [decode_op6 h]; rfl
  · rw [decode_op7 h]; rfl
  · have e := ne_00E0_of_op (w := w) (by simp [h]); have f := ne_00EE_of_op (w := w) (by simp [h])
    rw [decode_op8 h, decode8]; split_ifs <;> simp_all [Instr.wf, recognised_eq]
  · have e := ne_00E0_of_op (w := w) (by simp [h]); have f := ne_00EE_of_op (w := w) (by simp [h])
    rw [decode_op9 h]; split_ifs <;> simp_all [Instr.wf, recognised_eq]
  · rw [decode_opA h]; rfl
  · rw [decode_opB h]; rfl
  · rw [decode_opC h]; rfl
  · rw [decode_opD h]; rfl
  · have e := ne_00E0_of_op (w := w) (by simp [h]); have f := ne_00EE_of_op (w := w) (by simp [h])
    rw [decode_opE h, decodeE]; split_ifs <;> simp_all [Instr.wf, recognised_eq]
  · have e := ne_00E0_of_op (w := w) (by simp [h]); have f := ne_00EE_of_op (w := w) (by simp [h])
    rw [decode_opF h, decodeF]; split_ifs <;> simp_all [Instr.wf, recognised_eq]

/-! ### Byte order (R54) -/

/-- A word laid out high byte first and read back is the word. -/
@[simp] theorem wordOfBytes_bytes (w : Word) : wordOfBytes (highByte w) (lowByte w) = w := by
  have := w.isLt
  apply BitVec.eq_of_toNat_eq
  simp only [wordOfBytes, highByte, lowByte, BitVec.toNat_ofNat, BitVec.extractLsb'_toNat, Nat.shiftRight_eq_div_pow]
  omega

end Sys2Proof
end

