-- ==== Sys2Proof/Laws/PerInstr.lean ====
section
/-! SUPPORT. Statements about every instruction, one lemma per constructor of `Instr`. -/

set_option Elab.async false

namespace Sys2Proof.Laws.RoundTrip

/-- The decoder reads back what the encoder writes, wherever the term stands for a word (R66, R69). -/
def Statement (i : Instr) : Prop := i.wf = true → decode (encode i) = i

theorem cls : Statement .cls := fun _ => by decide

theorem ret : Statement .ret := fun _ => by decide

theorem jp (nnn : Addr) : Statement (.jp nnn) := fun _ => by
  rw [encode, decode_op1 (opField_encNNN ..)]; simp

theorem call (nnn : Addr) : Statement (.call nnn) := fun _ => by
  rw [encode, decode_op2 (opField_encNNN ..)]; simp

theorem seImm (x : Reg) (nn : Byte) : Statement (.seImm x nn) := fun _ => by
  rw [encode, decode_op3 (opField_encXNN ..)]; simp

theorem sneImm (x : Reg) (nn : Byte) : Statement (.sneImm x nn) := fun _ => by
  rw [encode, decode_op4 (opField_encXNN ..)]; simp

theorem seReg (x : Reg) (y : Reg) : Statement (.seReg x y) := fun _ => by
  rw [encode, decode_op5 (opField_encXYN ..)]; simp

theorem ldImm (x : Reg) (nn : Byte) : Statement (.ldImm x nn) := fun _ => by
  rw [encode, decode_op6 (opField_encXNN ..)]; simp

theorem addImm (x : Reg) (nn : Byte) : Statement (.addImm x nn) := fun _ => by
  rw [encode, decode_op7 (opField_encXNN ..)]; simp

theorem ldReg (x : Reg) (y : Reg) : Statement (.ldReg x y) := fun _ => by
  rw [encode, decode_op8 (opField_encXYN ..)]; simp [decode8]

theorem orReg (x : Reg) (y : Reg) : Statement (.orReg x y) := fun _ => by
  rw [encode, decode_op8 (opField_encXYN ..)]; simp [decode8]

theorem andReg (x : Reg) (y : Reg) : Statement (.andReg x y) := fun _ => by
  rw [encode, decode_op8 (opField_encXYN ..)]; simp [decode8]

theorem xorReg (x : Reg) (y : Reg) : Statement (.xorReg x y) := fun _ => by
  rw [encode, decode_op8 (opField_encXYN ..)]; simp [decode8]

theorem addReg (x : Reg) (y : Reg) : Statement (.addReg x y) := fun _ => by
  rw [encode, decode_op8 (opField_encXYN ..)]; simp [decode8]

theorem sub (x : Reg) (y : Reg) : Statement (.sub x y) := fun _ => by
  rw [encode, decode_op8 (opField_encXYN ..)]; simp [decode8]

theorem shr (x : Reg) (y : Reg) : Statement (.shr x y) := fun _ => by
  rw [encode, decode_op8 (opField_encXYN ..)]; simp [decode8]

theorem subn (x : Reg) (y : Reg) : Statement (.subn x y) := fun _ => by
  rw [encode, decode_op8 (opField_encXYN ..)]; simp [decode8]

theorem shl (x : Reg) (y : Reg) : Statement (.shl x y) := fun _ => by
  rw [encode, decode_op8 (opField_encXYN ..)]; simp [decode8]

theorem sneReg (x : Reg) (y : Reg) : Statement (.sneReg x y) := fun _ => by
  rw [encode, decode_op9 (opField_encXYN ..)]; simp

theorem ldI (nnn : Addr) : Statement (.ldI nnn) := fun _ => by
  rw [encode, decode_opA (opField_encNNN ..)]; simp

theorem jpV0 (nnn : Addr) : Statement (.jpV0 nnn) := fun _ => by
  rw [encode, decode_opB (opField_encNNN ..)]; simp

theorem rnd (x : Reg) (nn : Byte) : Statement (.rnd x nn) := fun _ => by
  rw [encode, decode_opC (opField_encXNN ..)]; simp

theorem drw (x : Reg) (y : Reg) (n : Fin 16) : Statement (.drw x y n) := fun _ => by
  rw [encode, decode_opD (opField_encXYN ..)]; simp

theorem skp (x : Reg) : Statement (.skp x) := fun _ => by
  rw [encode, decode_opE (opField_encXNN ..)]; simp [decodeE]

theorem sknp (x : Reg) : Statement (.sknp x) := fun _ => by
  rw [encode, decode_opE (opField_encXNN ..)]; simp [decodeE]

theorem ldVxDT (x : Reg) : Statement (.ldVxDT x) := fun _ => by
  rw [encode, decode_opF (opField_encXNN ..)]; simp [decodeF]

theorem ldVxK (x : Reg) : Statement (.ldVxK x) := fun _ => by
  rw [encode, decode_opF (opField_encXNN ..)]; simp [decodeF]

theorem ldDTVx (x : Reg) : Statement (.ldDTVx x) := fun _ => by
  rw [encode, decode_opF (opField_encXNN ..)]; simp [decodeF]

theorem ldSTVx (x : Reg) : Statement (.ldSTVx x) := fun _ => by
  rw [encode, decode_opF (opField_encXNN ..)]; simp [decodeF]

theorem addI (x : Reg) : Statement (.addI x) := fun _ => by
  rw [encode, decode_opF (opField_encXNN ..)]; simp [decodeF]

theorem ldF (x : Reg) : Statement (.ldF x) := fun _ => by
  rw [encode, decode_opF (opField_encXNN ..)]; simp [decodeF]

theorem ldB (x : Reg) : Statement (.ldB x) := fun _ => by
  rw [encode, decode_opF (opField_encXNN ..)]; simp [decodeF]

theorem ldStore (x : Reg) : Statement (.ldStore x) := fun _ => by
  rw [encode, decode_opF (opField_encXNN ..)]; simp [decodeF]

theorem ldLoad (x : Reg) : Statement (.ldLoad x) := fun _ => by
  rw [encode, decode_opF (opField_encXNN ..)]; simp [decodeF]

theorem unrecognised (w : Word) : Statement (.unrecognised w) := fun h => decode_of_not_recognised (w := w) (by simpa [Instr.wf] using h)

end Sys2Proof.Laws.RoundTrip
end

