-- ==== Sys2Proof/Tests/Slice0.lean ====
section
/-! SUPPORT. Tests. Every expected value comes from the spec: the encodings of spec/opcode_table.json written out bit by bit, the vectors
of spec/95_test_vectors.md (named in the comments), and the rules where no vector exists. After them, one witness for the hypotheses
of each statement. -/

set_option Elab.async false

open Sys2Proof Sys2Proof.Machine

namespace Sys2Proof.Tests

/-! ### WellFormed: ill-formed terms the check refuses -/

theorem test_wf_refuses_fallback_with_a_recognised_word : (Instr.unrecognised 0x00E0).wf = false := by decide
theorem test_wf_refuses_fallback_with_a_family_word : (Instr.unrecognised 0x8124).wf = false := by decide
theorem test_wf_accepts_fallback_with_its_own_word : (Instr.unrecognised 0x8128).wf = true := by decide

/-! ### Decoding: a word written out from each row of the opcode table, fields all different where the row has several -/

theorem test_decode_cls : decode 0b0000000011100000 = .cls ∧ encode (.cls) = 0b0000000011100000 := by decide
theorem test_decode_ret : decode 0b0000000011101110 = .ret ∧ encode (.ret) = 0b0000000011101110 := by decide
theorem test_decode_jp : decode 0b0001101010111100 = .jp 0xABC ∧ encode (.jp 0xABC) = 0b0001101010111100 := by decide
theorem test_decode_call : decode 0b0010000100100011 = .call 0x123 ∧ encode (.call 0x123) = 0b0010000100100011 := by decide
theorem test_decode_seImm : decode 0b0011000101000010 = .seImm 1 0x42 ∧ encode (.seImm 1 0x42) = 0b0011000101000010 := by decide
theorem test_decode_sneImm : decode 0b0100111010000001 = .sneImm 14 0x81 ∧ encode (.sneImm 14 0x81) = 0b0100111010000001 := by decide
theorem test_decode_seReg : decode 0b0101000100100000 = .seReg 1 2 ∧ encode (.seReg 1 2) = 0b0101000100100000 := by decide
theorem test_decode_ldImm : decode 0b0110111110100111 = .ldImm 15 0xA7 ∧ encode (.ldImm 15 0xA7) = 0b0110111110100111 := by decide
theorem test_decode_addImm : decode 0b0111001000100000 = .addImm 2 0x20 ∧ encode (.addImm 2 0x20) = 0b0111001000100000 := by decide
theorem test_decode_ldReg : decode 0b1000000100100000 = .ldReg 1 2 ∧ encode (.ldReg 1 2) = 0b1000000100100000 := by decide
theorem test_decode_orReg : decode 0b1000001101000001 = .orReg 3 4 ∧ encode (.orReg 3 4) = 0b1000001101000001 := by decide
theorem test_decode_andReg : decode 0b1000010101100010 = .andReg 5 6 ∧ encode (.andReg 5 6) = 0b1000010101100010 := by decide
theorem test_decode_xorReg : decode 0b1000011110000011 = .xorReg 7 8 ∧ encode (.xorReg 7 8) = 0b1000011110000011 := by decide
theorem test_decode_addReg : decode 0b1000100110100100 = .addReg 9 10 ∧ encode (.addReg 9 10) = 0b1000100110100100 := by decide
theorem test_decode_sub : decode 0b1000101111000101 = .sub 11 12 ∧ encode (.sub 11 12) = 0b1000101111000101 := by decide
theorem test_decode_shr : decode 0b1000110111100110 = .shr 13 14 ∧ encode (.shr 13 14) = 0b1000110111100110 := by decide
theorem test_decode_subn : decode 0b1000111100000111 = .subn 15 0 ∧ encode (.subn 15 0) = 0b1000111100000111 := by decide
theorem test_decode_shl : decode 0b1000000111111110 = .shl 1 15 ∧ encode (.shl 1 15) = 0b1000000111111110 := by decide
theorem test_decode_sneReg : decode 0b1001000100100000 = .sneReg 1 2 ∧ encode (.sneReg 1 2) = 0b1001000100100000 := by decide
theorem test_decode_ldI : decode 0b1010001011110000 = .ldI 0x2F0 ∧ encode (.ldI 0x2F0) = 0b1010001011110000 := by decide
theorem test_decode_jpV0 : decode 0b1011001100000001 = .jpV0 0x301 ∧ encode (.jpV0 0x301) = 0b1011001100000001 := by decide
theorem test_decode_rnd : decode 0b1100001100001111 = .rnd 3 0x0F ∧ encode (.rnd 3 0x0F) = 0b1100001100001111 := by decide
theorem test_decode_drw : decode 0b1101000100100101 = .drw 1 2 5 ∧ encode (.drw 1 2 5) = 0b1101000100100101 := by decide
theorem test_decode_skp : decode 0b1110001010011110 = .skp 2 ∧ encode (.skp 2) = 0b1110001010011110 := by decide
theorem test_decode_sknp : decode 0b1110001010100001 = .sknp 2 ∧ encode (.sknp 2) = 0b1110001010100001 := by decide
theorem test_decode_ldVxDT : decode 0b1111010000000111 = .ldVxDT 4 ∧ encode (.ldVxDT 4) = 0b1111010000000111 := by decide
theorem test_decode_ldVxK : decode 0b1111001100001010 = .ldVxK 3 ∧ encode (.ldVxK 3) = 0b1111001100001010 := by decide
theorem test_decode_ldDTVx : decode 0b1111000100010101 = .ldDTVx 1 ∧ encode (.ldDTVx 1) = 0b1111000100010101 := by decide
theorem test_decode_ldSTVx : decode 0b1111000100011000 = .ldSTVx 1 ∧ encode (.ldSTVx 1) = 0b1111000100011000 := by decide
theorem test_decode_addI : decode 0b1111001000011110 = .addI 2 ∧ encode (.addI 2) = 0b1111001000011110 := by decide
theorem test_decode_ldF : decode 0b1111101000101001 = .ldF 10 ∧ encode (.ldF 10) = 0b1111101000101001 := by decide
theorem test_decode_ldB : decode 0b1111010100110011 = .ldB 5 ∧ encode (.ldB 5) = 0b1111010100110011 := by decide
theorem test_decode_ldStore : decode 0b1111111101010101 = .ldStore 15 ∧ encode (.ldStore 15) = 0b1111111101010101 := by decide
theorem test_decode_ldLoad : decode 0b1111001001100101 = .ldLoad 2 ∧ encode (.ldLoad 2) = 0b1111001001100101 := by decide

/-- DC1 to DC10: unrecognised words, one for each part of the unrecognised space. -/
theorem test_decode_unrecognised :
    [0x0000, 0x0123, 0x00E1, 0x5121, 0x8128, 0x812F, 0x9121, 0xE1FF, 0xF1FF, 0xFFFF].all
      (fun w => decode w == Instr.unrecognised w) = true := by decide

/-- The opcode table is unambiguous: no two of its rows match one word. -/
theorem test_rows_do_not_overlap :
    opcodeRows.Pairwise (fun r q => r.bits &&& q.mask &&& r.mask ≠ q.bits &&& r.mask &&& q.mask) := by decide

/-- R54: the word is laid out high byte first. -/
theorem test_decodeTableWord : decodeTableWord 16 0xD125 = some (.drw 1 2 5) := by decide
theorem test_decodeBytes : decodeBytes [0xA2, 0xF0, 0x77] = some (.ldI 0x2F0, [0x77]) := by decide
theorem test_decodeBytes_short : decodeBytes [0xA2] = none := by decide

/-! ### Helpers: one step of a word at PC, and a question about the state it leaves -/

/-- One step of the word placed where the next step fetches it. -/
def ran (w : Nat) (s : State) : Host.Outcome State Fault Refusal := step (s.withFetchWord 16 w)

/-- A question about the next state. -/
def after (o : Host.Outcome State Fault Refusal) (p : State → Bool) : Bool :=
  match o with
  | .next t => p t
  | .fault _ => false
  | .refused _ => false

/-- The reset state with V1 and V2. -/
def two (a b : Byte) : State := (State.reset.setReg 1 a).setReg 2 b

/-- The step raised a fault with this record, returned it, and left PC and LAST_OP. -/
def faultedAs (s : State) (r : FaultRecord) (t : State) : Bool :=
  t.fault == r && t.reply == .fault r && t.pc == s.pc && t.lastOp == s.lastOp && t.v == s.v && t.disp == s.disp

/-- The set cells among the first and last rows, as (column, row). -/
def cellsSet (t : State) (cells : List (Nat × Nat)) : Bool :=
  t.disp == cells.foldl (fun d c => d ||| BitVec.twoPow 2048 (c.2 * 64 + c.1)) 0

/-! ### Instructions, against the vectors of spec/95_test_vectors.md -/

/-- CF1. -/
theorem test_seImm_skips : after (ran 0x3105 (two 0x05 0)) (fun t => t.pc == 0x204) = true := by decide
/-- CF2. -/
theorem test_seImm_passes : after (ran 0x3105 (two 0x06 0)) (fun t => t.pc == 0x202) = true := by decide
/-- CF3. -/
theorem test_sneImm_passes : after (ran 0x4105 (two 0x05 0)) (fun t => t.pc == 0x202) = true := by decide
/-- CF4. -/
theorem test_sneImm_skips : after (ran 0x4105 (two 0x06 0)) (fun t => t.pc == 0x204) = true := by decide
/-- CF5. -/
theorem test_seReg_skips : after (ran 0x5120 (two 7 7)) (fun t => t.pc == 0x204) = true := by decide
/-- CF6. -/
theorem test_seReg_passes : after (ran 0x5120 (two 7 8)) (fun t => t.pc == 0x202) = true := by decide
/-- CF7. -/
theorem test_sneReg_skips : after (ran 0x9120 (two 7 8)) (fun t => t.pc == 0x204) = true := by decide
/-- CF8. -/
theorem test_sneReg_passes : after (ran 0x9120 (two 7 7)) (fun t => t.pc == 0x202) = true := by decide
/-- CF10. -/
theorem test_jp_self : after (ran 0x1200 (State.reset)) (fun t => t.pc == 0x200) = true := by decide
/-- CF11. -/
theorem test_call_pushes : after (ran 0x2400 (State.reset)) (fun t => t.pc == 0x400 && t.sp == 1 && t.stack[0] == 0x202) = true := by decide
/-- CF14, step 17. -/
theorem test_call_overflows : after (ran 0x2200 ({ State.reset with sp := 16 })) (fun t => faultedAs { State.reset with sp := 16 } ⟨.stackOverflow, 0x200, 0x2200, .none, 0⟩ t && t.sp == 16) = true := by decide +kernel
/-- CF12. -/
theorem test_ret_pops : after (ran 0x00EE ({ State.reset with sp := 1, stack := State.reset.stack.set 0 0x346 })) (fun t => t.pc == 0x346 && t.sp == 0 && t.stack[0] == 0x346) = true := by decide
/-- CF13. -/
theorem test_ret_underflows : after (ran 0x00EE (State.reset)) (fun t => faultedAs State.reset ⟨.stackUnderflow, 0x200, 0x00EE, .none, 0⟩ t) = true := by decide +kernel
/-- CF15. -/
theorem test_jpV0_adds_V0 : after (ran 0xB300 (State.reset.setReg 0 0x10)) (fun t => t.pc == 0x310) = true := by decide
/-- CF16. -/
theorem test_jpV0_is_not_reduced : after (ran 0xBFFF (State.reset.setReg 0 0xFF)) (fun t => t.pc == 0x10FE && t.reply == .stepOk false false) = true := by decide
/-- CF17. -/
theorem test_skip_past_the_end_is_unchecked : after (ran 0x3000 ({ State.reset with pc := 0xFFC })) (fun t => t.pc == 0x1000) = true := by decide
/-- AL1. -/
theorem test_ldImm_VF : after (ran 0x6FA7 (State.reset)) (fun t => t.reg 15 == 0xA7) = true := by decide
/-- AL3. -/
theorem test_addImm_wraps_without_a_flag : after (ran 0x7101 (two 0xFF 0)) (fun t => t.reg 1 == 0 && t.reg 15 == 0) = true := by decide
/-- AL4. -/
theorem test_addImm_VF : after (ran 0x7F01 (State.reset.setReg 15 0xFF)) (fun t => t.reg 15 == 0) = true := by decide
/-- AL5. -/
theorem test_ldReg : after (ran 0x8120 (two 0x12 0x34)) (fun t => t.reg 1 == 0x34 && t.reg 2 == 0x34) = true := by decide
/-- AL6. -/
theorem test_orReg_leaves_VF : after (ran 0x8121 ((two 0x0F 0xF0).setReg 15 1)) (fun t => t.reg 1 == 0xFF && t.reg 15 == 1) = true := by decide
/-- AL7. -/
theorem test_andReg : after (ran 0x8122 (two 0x3C 0x0F)) (fun t => t.reg 1 == 0x0C) = true := by decide
/-- AL8. -/
theorem test_xorReg : after (ran 0x8123 (two 0xFF 0x0F)) (fun t => t.reg 1 == 0xF0) = true := by decide
/-- AL9. -/
theorem test_addReg_carries : after (ran 0x8124 (two 0xFF 0x01)) (fun t => t.reg 1 == 0 && t.reg 15 == 1) = true := by decide
/-- AL25. -/
theorem test_addReg_to_VF_keeps_the_flag : after (ran 0x8F24 ((two 0 0x20).setReg 15 0xF0)) (fun t => t.reg 15 == 1) = true := by decide
/-- AL14. -/
theorem test_sub_equal_gives_0 : after (ran 0x8125 (two 7 7)) (fun t => t.reg 1 == 0 && t.reg 15 == 0) = true := by decide
/-- AL13. -/
theorem test_sub_borrows : after (ran 0x8125 (two 5 0x0A)) (fun t => t.reg 1 == 0xFB && t.reg 15 == 0) = true := by decide
/-- AL17. -/
theorem test_shr_reads_Vx : after (ran 0x8126 (two 0xFF 0)) (fun t => t.reg 1 == 0x7F && t.reg 15 == 1) = true := by decide
/-- AL28. -/
theorem test_shr_of_VF : after (ran 0x8F26 (State.reset.setReg 15 3)) (fun t => t.reg 15 == 1) = true := by decide
/-- AL19. -/
theorem test_subn : after (ran 0x8127 (two 3 0x0A)) (fun t => t.reg 1 == 7 && t.reg 15 == 1) = true := by decide
/-- AL21. -/
theorem test_subn_equal_gives_0 : after (ran 0x8127 (two 7 7)) (fun t => t.reg 1 == 0 && t.reg 15 == 0) = true := by decide
/-- AL22. -/
theorem test_shl_drops_bit_7 : after (ran 0x812E (two 0x80 0)) (fun t => t.reg 1 == 0 && t.reg 15 == 1) = true := by decide
/-- AL23. -/
theorem test_shl_keeps_the_rest : after (ran 0x812E (two 0x7F 0)) (fun t => t.reg 1 == 0xFE && t.reg 15 == 0) = true := by decide
/-- AL35: whatever the draw is, and the draw is made. -/
theorem test_rnd_of_mask_0 (s : State) : ∃ t, exec (.rnd 3 0) s = .next t ∧ t.reg 3 = 0 ∧ t.draws = s.draws + 1 :=
  ⟨_, rfl, by simp [State.reg, State.drawByte, State.setReg, State.finished], rfl⟩
/-- IM1. -/
theorem test_ldI : after (ran 0xA2F0 (State.reset)) (fun t => t.i == 0x2F0) = true := by decide
/-- IM3. -/
theorem test_addI_passes_0xFFF : after (ran 0xF21E ({ two 0 1 with i := 0xFFF })) (fun t => t.i == 0x1000 && t.reg 15 == 0) = true := by decide
/-- IM4. -/
theorem test_addI_wraps : after (ran 0xF21E ({ two 0 2 with i := 0xFFFF })) (fun t => t.i == 1) = true := by decide
/-- IM6. -/
theorem test_ldF : after (ran 0xFA29 (State.reset.setReg 10 0x0A)) (fun t => t.i == 0x082) = true := by decide
/-- IM8. -/
theorem test_ldF_is_not_reduced : after (ran 0xF029 (State.reset.setReg 0 0xFF)) (fun t => t.i == 0x54B) = true := by decide
/-- IM14. -/
theorem test_ldB_254 : after (ran 0xF533 ({ State.reset.setReg 5 254 with i := 0x300 })) (fun t => t.mem.read 0x300 == 2 && t.mem.read 0x301 == 5 && t.mem.read 0x302 == 4) = true := by decide
/-- IM17. -/
theorem test_ldB_keeps_nothing_of_a_fault : after (ran 0xF533 ({ State.reset.setReg 5 7 with i := 0xFFE })) (fun t => t.fault == ⟨.memoryOutOfBounds, 0x200, 0xF533, .write, 0x1000⟩ && t.mem.read 0xFFE == 0 && t.mem.read 0xFFF == 0 && t.pc == 0x200) = true := by decide
/-- IM19. -/
theorem test_ldStore_at_the_end : after (ran 0xF055 ({ State.reset.setReg 0 9 with i := 0xFFF })) (fun t => t.mem.read 0xFFF == 9 && t.i == 0xFFF && t.reply == .stepOk false false) = true := by decide
/-- IM20. -/
theorem test_ldStore_keeps_nothing_of_a_fault : after (ran 0xF155 ({ (State.reset.setReg 0 9).setReg 1 8 with i := 0xFFF })) (fun t => t.fault == ⟨.memoryOutOfBounds, 0x200, 0xF155, .write, 0x1000⟩ && t.mem.read 0xFFF == 0) = true := by decide
/-- IM22. -/
theorem test_ldLoad_of_the_font : after (ran 0xFF65 ({ State.reset with i := 0x050 })) (fun t => t.v.toList == [0xF0, 0x90, 0x90, 0x90, 0xF0, 0x20, 0x60, 0x20, 0x20, 0x70, 0xF0, 0x10, 0xF0, 0x80, 0xF0, 0xF0]) = true := by decide
/-- IM23. -/
theorem test_ldLoad_keeps_nothing_of_a_fault : after (ran 0xF165 ({ (State.reset.setReg 0 3).setReg 1 4 with i := 0xFFF })) (fun t => t.fault == ⟨.memoryOutOfBounds, 0x200, 0xF165, .read, 0x1000⟩ && t.reg 0 == 3 && t.reg 1 == 4) = true := by decide
/-- DS1. -/
theorem test_cls : after (ran 0x00E0 ({ State.reset with disp := BitVec.allOnes 2048 })) (fun t => t.disp == 0 && t.reply == .stepOk true false) = true := by decide +kernel
/-- DS5. -/
theorem test_drw_wraps_linearly : after (ran 0xD011 ({ (State.reset.setReg 0 60).setReg 1 31 with i := 0x300, mem := State.reset.mem.write 0x300 0xFF })) (fun t => cellsSet t [(60, 31), (61, 31), (62, 31), (63, 31), (0, 0), (1, 0), (2, 0), (3, 0)] && t.reg 15 == 0) = true := by decide +kernel
/-- DS9. -/
theorem test_drw_collides : after (ran 0xD011 ({ State.reset with i := 0x300, mem := State.reset.mem.write 0x300 0x80, disp := 1 })) (fun t => t.disp == 0 && t.reg 15 == 1) = true := by decide +kernel
/-- KT1. -/
theorem test_skp_skips : after (ran 0xE29E ({ two 0 5 with keysIn := 0x0020 })) (fun t => t.pc == 0x204) = true := by decide
/-- KT6. -/
theorem test_skp_faults : after (ran 0xE29E ({ two 0 0xFF with keysIn := 0x0001 })) (fun t => t.fault == ⟨.keyIndexOutOfRange, 0x200, 0xE29E, .none, 0xFF⟩) = true := by decide
/-- KT4. -/
theorem test_sknp_passes : after (ran 0xE2A1 ({ two 0 5 with keysIn := 0x0020 })) (fun t => t.pc == 0x202) = true := by decide
/-- KT3. -/
theorem test_sknp_skips : after (ran 0xE2A1 (two 0 5)) (fun t => t.pc == 0x204) = true := by decide
/-- KT8, DC14. -/
theorem test_ldVxK_waits : after (ran 0xFF0A (State.reset.setReg 15 9)) (fun t => t.pc == 0x200 && t.mode == .awaitingKey && t.reg 15 == 9 && t.lastOp == 0xFF0A) = true := by decide
/-- KT10, DC13. -/
theorem test_ldVxK_takes_the_lowest : after (ran 0xFF0A ({ State.reset with keysIn := 0x0088, mode := .awaitingKey })) (fun t => t.pc == 0x202 && t.mode == .running && t.reg 15 == 3) = true := by decide
/-- KT12. -/
theorem test_ldVxDT : after (ran 0xF407 ({ State.reset with dt := 0x3C })) (fun t => t.reg 4 == 0x3C && t.dt == 0x3C) = true := by decide
/-- KT13. -/
theorem test_ldDTVx : after (ran 0xF115 ({ State.reset with dt := 9 })) (fun t => t.dt == 0) = true := by decide
/-- KT14. -/
theorem test_ldSTVx_1_sounds : after (ran 0xF118 (two 1 0)) (fun t => t.st == 1 && t.reply == .stepOk false true) = true := by decide
/-- KT15. -/
theorem test_ldSTVx_2_is_silent : after (ran 0xF118 (two 2 0)) (fun t => t.st == 2 && t.reply == .stepOk false false) = true := by decide
/-- DC2. -/
theorem test_unrecognised_is_a_no_op : after (ran 0x0123 (two 1 1)) (fun t => t.pc == 0x202 && t.lastOp == 0x0123 && t.v == (two 1 1).v && t.reply == .stepOk false false) = true := by decide

/-! ### The step and the host's operations -/

/-- LD6: a step before load is refused. -/
theorem test_step_before_load_is_refused : step State.reset = .refused .stepBeforeLoad := rfl

/-- CF18, step 2: the second byte of the fetch is out of range. -/
theorem test_fetch_at_the_last_byte : after (step { State.reset with pc := 0xFFF, loaded := true })
    (fun t => t.fault == ⟨.memoryOutOfBounds, 0xFFF, 0, .fetch, 0x1000⟩) = true := by decide

/-- CF16, step 2: the fetch is out of range. -/
theorem test_fetch_past_the_end : after (step { State.reset with pc := 0x10FE, loaded := true })
    (fun t => t.fault == ⟨.memoryOutOfBounds, 0x10FE, 0, .fetch, 0x10FE⟩) = true := by decide

/-- LD4: the bytes of an odd-length ROM, and the word that spans its end. -/
theorem test_load_of_three_bytes : after (step { State.reset with inbox := [.load [0x12, 0x34, 0x56]] })
    (fun t => t.mem.read 0x200 == 0x12 && t.mem.read 0x202 == 0x56 && (match t.fetch16 0x202 with | .ok w => w == 0x5600 | .error _ => false) && t.loaded) = true := by
  decide

/-- LD5: a second load is refused. -/
theorem test_second_load_is_refused : step { State.reset with loaded := true, inbox := [.load []] } = .refused .loadOutOfTurn := rfl

/-- KT16: the timers are independent, DT stays at the floor. -/
theorem test_tick : after (step { State.reset with st := 3, inbox := [.tick] }) (fun t => t.dt == 0 && t.st == 2) = true := by decide

/-- DC11: the recorded fault is returned again, and nothing changes. -/
theorem test_fault_is_returned_again : after (step
    { State.reset with loaded := true, fault := ⟨.stackUnderflow, 0x200, 0x00EE, .none, 0⟩ })
    (fun t => t.reply == .fault ⟨.stackUnderflow, 0x200, 0x00EE, .none, 0⟩ && t.pc == 0x200) = true := by decide

/-- LD7: a reset clears the fault and the rest. -/
theorem test_reset_after_a_fault : after (step
    { State.reset with pc := 0x300, i := 7, loaded := true, fault := ⟨.stackUnderflow, 0x200, 0x00EE, .none, 0⟩, inbox := [.reset] })
    (fun t => t == State.reset) = true := by decide +kernel

/-- R7, R165: the reference driver's schedule, one step and one tick without end; the third round starts where the second ended. -/
theorem test_reference_schedule :
    after (step { State.reset with loaded := true, dt := 5, schedule := .repeating [.step 0, .tick] }) (fun t =>
      t.pc == 0x202 && t.dt == 5 && after (step t) (fun t => t.pc == 0x202 && t.dt == 4 && after (step t) (fun t =>
        t.pc == 0x204 && after (step t) (fun t => t.dt == 3 && t.inbox == [] && t.schedule == .repeating [.step 0, .tick])))) = true := by
  decide

/-- log 13: a word placed on a machine whose schedule is free, or starts with a tick, still runs next. -/
theorem test_withFetchWord_makes_the_next_request_a_step :
    after (ran 0x1300 { State.reset with schedule := .free 7 }) (fun t => t.pc == 0x300 && t.schedule == .free 7) = true ∧
    after (ran 0x1300 { State.reset with schedule := .repeating [.tick] }) (fun t => t.pc == 0x300) = true := by decide

/-- LD8: the debug view at reset. -/
theorem test_debug_at_reset : State.reset.debug = ⟨Vector.replicate 16 0, 0x200, 0x0000, 0, 0⟩ := by decide

/-- S9, as words loaded and stepped by the host's requests: V0 = 15, VF = 0, PC = 0x206. -/
theorem test_host_runs_a_program :
    after (step { State.reset with inbox := [.load [0x60, 0x05, 0x61, 0x0A, 0x80, 0x14], .step 0] }) (fun t =>
      after (step t) (fun t => after (step t) (fun t => after (step t) (fun t =>
        t.reg 0 == 0x0F && t.reg 1 == 0x0A && t.reg 15 == 0 && t.pc == 0x206 && t.lastOp == 0x8014)))) = true := by decide


/-! ### Witnesses: a concrete state and operands that meet the hypotheses of each statement together, clause by clause -/

/-- A loaded machine right after reset. -/
def ready : State := { State.reset with loaded := true }

theorem ready_wf : ready.mem.wf := Memory.wf_empty _

theorem witness_DecodeReadsBackEveryEncodedInstruction :
    (Instr.drw 15 15 15).wf = true ∧ (Instr.unrecognised 0x0FFF).wf = true := by decide

theorem witness_MatchingARowDecodesToItsInstruction :
    0xFFFF#16 &&& 0xFFFF#16 ≠ 0x00E0#16 ∧ 0x00E0#16 &&& 0xFFFF#16 = 0x00E0#16 ∧ 0x00EE#16 &&& 0xFFFF#16 = 0x00EE#16 ∧
    0x1FFF#16 &&& 0xF000#16 = 0x1000#16 ∧ 0x8FFE#16 &&& 0xF00F#16 = 0x800E#16 ∧ 0xFF65#16 &&& 0xF0FF#16 = 0xF065#16 := by decide

/-- R71: the ends of the five ranges of its list, and their neighbours that are instructions. -/
theorem witness_UnrecognisedWordsAreExactlyTheList :
    ([0x0000, 0x00DF, 0x00E1, 0x00ED, 0x00EF, 0x0FFF, 0x5001, 0x5FFF, 0x9001, 0x9FFF, 0x8008, 0x800D, 0x8FFF, 0xE000, 0xE0A0,
      0xEFFF, 0xF000, 0xF066, 0xFFFF].all fun w => decode w == Instr.unrecognised w) = true ∧
    ([0x00E0, 0x00EE, 0x1000, 0x5FF0, 0x9000, 0x8FF7, 0x8FFE, 0xEF9E, 0xE0A1, 0xF007, 0xFF65].all fun w =>
      decode w != Instr.unrecognised w) = true := by decide

/-- A pending step at the last place a word can stand. -/
theorem witness_StepRunsTheDecodedInstruction_pending : ∃ (s : State) (keys : Keys) (w : Word),
    s.nextRequest = .step keys ∧ s.fault.kind = .none ∧ s.loaded = true ∧ s.pc.toNat ≤ 0xFFE ∧
    w.toNat = (s.mem.read s.pc.toNat).toNat * 256 + (s.mem.read (s.pc.toNat + 1)).toNat ∧ s.pc = 0xFFE ∧ s.inbox ≠ [] :=
  ⟨{ ready with pc := 0xFFE, inbox := [.step 1, .tick] }, 1, 0, rfl, rfl, rfl, by decide, by decide, rfl, by simp⟩

/-- A scheduled step, the empty round's and a round's. -/
theorem witness_StepRunsTheDecodedInstruction_scheduled : ∃ (s u : State) (keys : Keys) (w : Word),
    s.nextRequest = .step 0 ∧ s.inbox = [] ∧ s.fault.kind = .none ∧ s.loaded = true ∧ s.pc.toNat ≤ 0xFFE ∧
    w.toNat = (s.mem.read s.pc.toNat).toNat * 256 + (s.mem.read (s.pc.toNat + 1)).toNat ∧
    u = { s with schedule := .repeating [.step keys, .tick] } ∧ u.nextRequest = .step keys ∧ keys = 0x8000 :=
  ⟨{ ready with pc := 0x050 }, _, 0x8000, 0xF090, rfl, rfl, rfl, rfl, by decide, by decide, rfl, rfl, rfl⟩

theorem witness_StepServesTheHostsRequests : (∃ (s : State) (r : Request) (rest : List Request), s.inbox = r :: rest) ∧
    (∃ s : State, s.inbox = [] ∧ s.schedule = .repeating []) ∧
    (∃ (s : State) (r : Request) (rest : List Request), s.inbox = [] ∧ s.schedule = .repeating (r :: rest)) ∧
    (∃ (s : State) (n : Nat), s.inbox = [] ∧ s.schedule = .free n) ∧ ∃ (r : Request) (s t : State), perform r s = .next t :=
  ⟨⟨{ ready with inbox := [.tick] }, .tick, [], rfl⟩, ⟨ready, rfl, rfl⟩,
    ⟨{ ready with schedule := .repeating [.step 0, .tick] }, .step 0, [.tick], rfl, rfl⟩,
    ⟨{ ready with schedule := .free 0 }, 0, rfl, rfl⟩, .tick, ready, _, rfl⟩

theorem witness_MachineStopsOnlyOnAHostBreach : step State.reset = .refused .stepBeforeLoad ∧
    step { ready with inbox := [.load []] } = .refused .loadOutOfTurn ∧
    step { State.reset with fault := ⟨.romTooLarge, 0x200, 0, .none, 3585⟩, inbox := [.load []] } = .refused .loadOutOfTurn :=
  ⟨rfl, rfl, rfl⟩

theorem witness_LoadCopiesTheRomOrFaults_copy : ∃ (s : State) (rom : List Byte),
    s.fault.kind = .none ∧ s.loaded = false ∧ s.mem.wf ∧ rom.length ≤ 3584 ∧ 3583 < rom.length :=
  ⟨State.reset, List.replicate 3584 1, rfl, rfl, Memory.wf_empty _, by rw [List.length_replicate], by rw [List.length_replicate]; omega⟩

theorem witness_LoadCopiesTheRomOrFaults_fault : ∃ (s : State) (rom : List Byte),
    s.fault.kind = .none ∧ s.loaded = false ∧ 3584 < rom.length :=
  ⟨State.reset, List.replicate 3585 1, rfl, rfl, by rw [List.length_replicate]; omega⟩

theorem witness_LoadCopiesTheRomOrFaults_refused : (∃ s : State, s.fault.kind ≠ .none) ∧ ∃ s : State, s.loaded = true :=
  ⟨⟨State.reset.takeFault .stackUnderflow 0x00EE, by decide⟩, ready, rfl⟩

theorem witness_TickDecrementsEachTimerAboveZero :
    (∃ s : State, s.fault.kind = .none ∧ s.dt = 0 ∧ s.st = 0xFF) ∧ ∃ s : State, s.fault.kind ≠ .none ∧ s.dt = 5 :=
  ⟨⟨{ ready with st := 0xFF }, rfl, rfl, rfl⟩, { ready.takeFault .stackUnderflow 0x00EE with dt := 5 }, by decide, rfl⟩

theorem witness_TicksCountDownToTheFloor : ∃ s : State, s.fault.kind = .none ∧ s.dt = 5 := ⟨{ ready with dt := 5 }, rfl, rfl⟩

theorem witness_ToneIsOnForOneTickInterval : ∃ s : State, s.fault.kind = .none ∧ s.st = 1 := ⟨{ ready with st := 1 }, rfl, rfl⟩

theorem witness_FaultIsStickyUntilReset : ∃ s : State, s.fault.kind ≠ .none :=
  ⟨ready.takeFault (.keyIndexOutOfRange 0x10) 0xE09E, by decide⟩

/-- Both clauses at their ends: 0xFFE, 0xFFF and 0x1000. -/
theorem witness_FetchIsBigEndianAndBounded : ∃ a b c : Nat, a ≤ 0xFFE ∧ b = 0xFFF ∧ 0xFFF < c ∧ a + 1 = b ∧ b + 1 = c :=
  ⟨0xFFE, 0xFFF, 0x1000, by decide, rfl, by decide, rfl, rfl⟩

theorem witness_DataAccessIsBoundedAndReadsBack : ∃ (s : State) (a c : Nat), 0xFFF < a ∧ c ≤ 0xFFF ∧ c + 1 = a ∧ s.mem.wf :=
  ⟨ready, 0x1000, 0xFFF, by decide, by decide, rfl, ready_wf⟩

/-- A fault of the rule (00EE) and a fault of the fetch (PC = 0xFFF). -/
theorem witness_FaultingStepChangesOnlyTheFaultRecord_rule : ∃ (s t : State) (w : Word),
    s.fault.kind = .none ∧ coreStep s = .next t ∧ t.fault.kind ≠ .none ∧ s.fetch16 s.pc.toNat = .ok w :=
  ⟨{ ready with mem := ready.mem.writeWord 0x200 0x00EE }, _, 0x00EE, rfl,
    coreStep_fetch _ rfl rfl (w := 0x00EE) rfl, by decide, rfl⟩

theorem witness_FaultingStepChangesOnlyTheFaultRecord_fetch : ∃ (s t : State) (f : Fault),
    s.fault.kind = .none ∧ coreStep s = .next t ∧ t.fault.kind ≠ .none ∧ s.fetch16 s.pc.toNat = .error f :=
  ⟨{ ready with pc := 0xFFF }, _, _, rfl, rfl, by decide, rfl⟩

theorem witness_FetchOutsideMemoryFaults : (∃ s : State, s.fault.kind = .none ∧ s.loaded = true ∧ s.pc.toNat = 0xFFF) ∧
    ∃ s : State, s.fault.kind = .none ∧ s.loaded = true ∧ s.pc.toNat = 0x1000 :=
  ⟨⟨{ ready with pc := 0xFFF }, rfl, rfl, rfl⟩, { ready with pc := 0x1000 }, rfl, rfl, rfl⟩

theorem witness_EachFaultKindHasItsInstructionsAndCondition_stack : ∃ s t u r : State,
    s.fault.kind = .none ∧ exec (.call 0x200) s = .next t ∧ t.fault.kind = .stackOverflow ∧
    u.fault.kind = .none ∧ exec .ret u = .next r ∧ r.fault.kind = .stackUnderflow :=
  ⟨{ ready with sp := 16 }, _, ready, _, rfl, rfl, rfl, rfl, rfl, rfl⟩

theorem witness_EachFaultKindHasItsInstructionsAndCondition_key : ∃ s t : State,
    s.fault.kind = .none ∧ exec (.sknp 2) s = .next t ∧ t.fault.kind = .keyIndexOutOfRange ∧ (s.reg 2).toNat = 16 :=
  ⟨ready.setReg 2 16, _, rfl, rfl, rfl, rfl⟩

theorem witness_EachFaultKindHasItsInstructionsAndCondition_memory : ∃ s t u : State,
    s.fault.kind = .none ∧ exec (.ldB 0) s = .next t ∧ t.fault.kind = .memoryOutOfBounds ∧ s.i.toNat + 2 = 0x1000 ∧
    exec (.drw 0 0 2) s = .next u ∧ u.fault.kind = .none :=
  ⟨{ ready with i := 0xFFE }, _, _, rfl, rfl, rfl, rfl, rfl, rfl⟩

/-- The lowest out-of-range address from I = 0xFFF on, and from I above the end on. -/
theorem witness_MemoryFaultsReportTheLowestAddress : ∃ (s u : State) (x : Reg) (n : Fin 16),
    (s.i.toNat ≤ 0x1000 ∧ 0xFFF < 0x1000 ∧ (∀ b, s.i.toNat ≤ b → 0xFFF < b → 0x1000 ≤ b) ∧ 0xFFF < s.i.toNat + 2 ∧
      0xFFF < s.i.toNat + x.val ∧ 0 < n.val ∧ 0xFFF < s.i.toNat + n.val - 1) ∧
    (u.i.toNat ≤ 0x1234 ∧ 0xFFF < 0x1234 ∧ ∀ b, u.i.toNat ≤ b → 0xFFF < b → 0x1234 ≤ b) :=
  ⟨{ ready with i := 0xFFF }, { ready with i := 0x1234 }, 1, 2,
    ⟨by decide, by decide, fun b _ h => h, by decide, by decide, by decide, by decide⟩, by decide, by decide, fun b h _ => h⟩

theorem witness_StackAndKeyFaultsAreRecorded : ∃ (s u : State) (x : Reg), s.sp.val = 16 ∧ u.sp.val = 0 ∧ 16 ≤ (s.reg x).toNat :=
  ⟨{ ready.setReg 3 16 with sp := 16 }, ready, 3, rfl, rfl, by decide⟩

theorem witness_CompletedStepLatchesKeysAndWord : ∃ (i : Instr) (s t : State),
    s.fault.kind = .none ∧ exec i s = .next t ∧ t.fault.kind = .none ∧ (∃ x nn, i = .rnd x nn) :=
  ⟨.rnd 3 0x0F, { ready with keysIn := 0x8001 }, _, rfl, rfl, rfl, 3, 0x0F, rfl⟩

theorem witness_CompletedStepLatchesKeysAndWord_no_draw : ∃ (i : Instr) (s t : State),
    s.fault.kind = .none ∧ exec i s = .next t ∧ t.fault.kind = .none ∧ (¬ ∃ x nn, i = .rnd x nn) :=
  ⟨.cls, ready, _, rfl, rfl, rfl, by rintro ⟨_, _, h⟩; cases h⟩

theorem witness_ModeAwaitsAKeyOnlyAfterFx0A : ∃ (i : Instr) (s t : State),
    s.fault.kind = .none ∧ exec i s = .next t ∧ t.fault.kind = .none ∧ t.mode = .awaitingKey :=
  ⟨.ldVxK 3, ready, _, rfl, rfl, rfl, rfl⟩

theorem witness_StepOutputsDirtyAndTone : ∃ (i : Instr) (s t : State),
    s.fault.kind = .none ∧ exec i s = .next t ∧ t.fault.kind = .none ∧ t.reply = .stepOk true true :=
  ⟨.cls, { ready with st := 1 }, _, rfl, rfl, rfl, rfl⟩

theorem witness_ProgramCounterFollowsTheTable : ∃ (i : Instr) (s t : State),
    s.fault.kind = .none ∧ exec i s = .next t ∧ t.fault.kind = .none ∧ t.pc = 0x346 :=
  ⟨.ret, { ready with sp := 1, stack := ready.stack.set 0 0x346 }, _, rfl, rfl, rfl, rfl⟩

theorem witness_OnlyTheTabledRegistersChange : ∃ (i : Instr) (s t : State) (y : Reg),
    s.fault.kind = .none ∧ exec i s = .next t ∧ t.fault.kind = .none ∧ ¬ i.writes y :=
  ⟨.addReg 1 2, ready, _, 2, rfl, rfl, rfl, by simp [Instr.writes, VF]⟩

theorem witness_FlagIsWrittenLastByExactlySixInstructions : ∃ (s t u : State),
    s.fault.kind = .none ∧ exec (.addReg 15 15) s = .next t ∧ t.fault.kind = .none ∧ (s.reg 15).toNat = 0x80 ∧
    exec (.drw 15 15 1) s = .next u ∧ u.fault.kind = .none :=
  ⟨ready.setReg 15 0x80, _, _, rfl, rfl, rfl, rfl, rfl, rfl⟩

theorem witness_FlagIsWrittenLastByExactlySixInstructions_no_flag : ∃ (i : Instr) (s t : State),
    s.fault.kind = .none ∧ exec i s = .next t ∧ t.fault.kind = .none ∧
    (∀ x y n, i ≠ .addReg x y ∧ i ≠ .sub x y ∧ i ≠ .subn x y ∧ i ≠ .shr x y ∧ i ≠ .shl x y ∧ i ≠ .drw x y n) ∧ ¬ i.writes VF :=
  ⟨.addImm 14 0xFF, ready.setReg 14 0xFF, _, rfl, rfl, rfl, by simp, by simp [Instr.writes, VF]⟩

theorem witness_OnlyThreeInstructionsWriteI : ∃ (i : Instr) (s t : State),
    s.fault.kind = .none ∧ exec i s = .next t ∧ t.fault.kind = .none ∧
    (∀ nnn, i ≠ .ldI nnn) ∧ (∀ x, i ≠ .addI x) ∧ (∀ x, i ≠ .ldF x) :=
  ⟨.ldLoad 15, { ready with i := 0x050 }, _, rfl, rfl, rfl, by simp, by simp, by simp⟩

theorem witness_OnlyCallAndReturnTouchTheStack : ∃ (i : Instr) (s t : State),
    s.fault.kind = .none ∧ exec i s = .next t ∧ t.fault.kind = .none ∧ (∀ nnn, i ≠ .call nnn) ∧ i ≠ .ret :=
  ⟨.jp 0x300, { ready with sp := 16 }, _, rfl, rfl, rfl, by simp, by simp⟩

theorem witness_OnlyFx15AndFx18ChangeTimersInAStep : ∃ (i : Instr) (s t : State),
    s.fault.kind = .none ∧ exec i s = .next t ∧ t.fault.kind = .none ∧ (∀ x, i ≠ .ldDTVx x) ∧ ∀ x, i ≠ .ldSTVx x :=
  ⟨.ldVxDT 4, { ready with dt := 1, st := 1 }, _, rfl, rfl, rfl, by simp, by simp⟩

theorem witness_OnlyClearAndDrawChangeTheDisplay : ∃ (i : Instr) (s t : State),
    s.fault.kind = .none ∧ exec i s = .next t ∧ t.fault.kind = .none ∧ i ≠ .cls ∧ ∀ x y n, i ≠ .drw x y n :=
  ⟨.ldI 0x300, { ready with disp := 1 }, _, rfl, rfl, rfl, by simp, by simp⟩

theorem witness_MemoryOutsideTheStoredBytesIsUnchanged : ∃ (i : Instr) (s t : State) (a : Nat),
    s.fault.kind = .none ∧ s.mem.wf ∧ exec i s = .next t ∧ t.fault.kind = .none ∧ s.effAddr 0 + i.stores ≤ a ∧ a ≤ 0xFFF :=
  ⟨.ldStore 15, { ready with i := 0xFEF }, _, 0xFFF, rfl, ready_wf, rfl, rfl, by decide, by decide⟩

theorem witness_AssignAndLogic (x y : Reg) :
    (∃ i f, i = Instr.ldReg x y ∧ f = fun _ b : Bool => b) ∧ (∃ i f, i = Instr.orReg x y ∧ f = fun a b : Bool => a || b) ∧
    (∃ i f, i = Instr.andReg x y ∧ f = fun a b : Bool => a && b) ∧ ∃ i f, i = Instr.xorReg x y ∧ f = fun a b : Bool => a != b :=
  ⟨⟨_, _, rfl, rfl⟩, ⟨_, _, rfl, rfl⟩, ⟨_, _, rfl, rfl⟩, _, _, rfl, rfl⟩

theorem witness_FlagClauses_of_arithmetic : ∃ x z : Reg, x ≠ VF ∧ z ≠ x ∧ z ≠ VF := ⟨1, 2, by decide, by decide, by decide⟩

theorem witness_CallPushesTheReturnAddress : (∃ s : State, s.sp.val < 16 ∧ s.sp.val = 15) ∧ ∃ s : State, s.sp.val < 16 ∧ s.sp.val = 0 :=
  ⟨⟨{ ready with sp := 15 }, by decide, rfl⟩, ready, by decide, rfl⟩

theorem witness_ReturnPopsTheNewestAddress : ∃ (s u : State) (j k : Fin 16), s.sp.val = j.val + 1 ∧ j = 15 ∧ u.sp.val = k.val + 1 ∧ k = 0 :=
  ⟨{ ready with sp := 16 }, { ready with sp := 1 }, 15, 0, rfl, rfl, rfl, rfl⟩

theorem witness_ReturnAfterCallResumesAfterIt : ∃ (s t : State) (nnn : Addr), s.sp.val < 16 ∧ exec (.call nnn) s = .next t :=
  ⟨{ ready with sp := 15 }, _, 0x206, by decide, rfl⟩

theorem witness_KeySkips : ∃ (s : State) (x : Reg), (s.reg x).toNat < 16 ∧ (s.reg x).toNat = 15 := ⟨ready.setReg 2 15, 2, by decide, rfl⟩

theorem witness_DecimalDigitsAreStored : ∃ s : State, s.mem.wf ∧ s.i.toNat + 2 ≤ 0xFFF ∧ s.i.toNat = 0xFFD :=
  ⟨{ ready with i := 0xFFD }, ready_wf, by decide, rfl⟩

theorem witness_RegistersAreStored : ∃ (s : State) (x : Reg), s.mem.wf ∧ s.i.toNat + x.val ≤ 0xFFF ∧ x = 15 ∧ s.i.toNat = 0xFF0 :=
  ⟨{ ready with i := 0xFF0 }, 15, ready_wf, by decide, rfl, rfl⟩

theorem witness_RegistersAreLoaded : ∃ (s : State) (x y : Reg), s.i.toNat + x.val ≤ 0xFFF ∧ s.i.toNat = 0xFFF ∧ x.val < y.val :=
  ⟨{ ready with i := 0xFFF }, 0, 1, by decide, rfl, by decide⟩

theorem witness_LoadRestoresStoredRegisters : ∃ (s t u : State) (x : Reg), s.mem.wf ∧ s.i.toNat + x.val ≤ 0xFFF ∧
    exec (.ldStore x) s = .next t ∧ u.mem = t.mem ∧ u.i = s.i :=
  ⟨{ ready with i := 0x400 }, _, _, 15, ready_wf, by decide, rfl, rfl, rfl⟩

theorem witness_StoredWordIsFetched : ∃ (s t : State) (x y z : Reg), s.mem.wf ∧ s.i.toNat + x.val ≤ 0xFFF ∧ z.val = y.val + 1 ∧
    z.val ≤ x.val ∧ exec (.ldStore x) s = .next t :=
  ⟨{ ready with i := 0xFFE }, _, 1, 0, 1, ready_wf, by decide, rfl, by decide, rfl⟩

/-- The last sprite row at 0xFFF, and no row at all above the end of memory. -/
theorem witness_DrawInvertsExactlyTheSpriteCells : (∃ (s : State) (n : Fin 16) (rows : List Byte), 0 < n.val ∧
      s.i.toNat + n.val - 1 ≤ 0xFFF ∧ s.i.toNat = 0xFF1 ∧ rows = (List.range n.val).map (fun k => s.mem.read (s.i.toNat + k))) ∧
    ∃ (s : State) (n : Fin 16), n.val = 0 ∧ 0xFFF < s.i.toNat :=
  ⟨⟨{ ready with i := 0xFF1 }, 15, _, by decide, by decide, rfl, rfl⟩, { ready with i := 0x1000 }, 0, rfl, by decide⟩

theorem witness_DrawingTwiceRestoresTheDisplay : ∃ (s t : State) (x y : Reg) (n : Fin 16), x ≠ VF ∧ y ≠ VF ∧
    (n.val = 0 ∨ s.i.toNat + n.val - 1 ≤ 0xFFF) ∧ exec (.drw x y n) s = .next t ∧ ∀ c < 2048, s.disp.getLsbD c = false :=
  ⟨{ ready with i := 0x050 }, _, 0, 0, 5, by decide, by decide, .inr (by decide), rfl, by simp [ready, State.reset]⟩

theorem witness_WaitForKeyTakesTheLeastKey : (∃ s : State, ∀ k < 16, s.keysIn.getLsbD k = false) ∧
    (∃ s : State, s.keysIn.getLsbD 15 = true ∧ ∀ j < 15, s.keysIn.getLsbD j = false) ∧
    ∃ s : State, s.keysIn.getLsbD 0 = true ∧ s.keysIn.getLsbD 15 = true :=
  ⟨⟨ready, by simp [ready, State.reset]⟩, ⟨{ ready with keysIn := 0x8000 }, by decide, by decide⟩,
    { ready with keysIn := 0x8001 }, by decide, by decide⟩

theorem witness_ParkedMachineStaysParked : ∃ s : State, s.safe ∧ s.loaded = true ∧ s.parked :=
  ⟨{ ready with mem := ready.mem.writeWord 0x200 0x1200 }, rfl, rfl, by decide, rfl⟩

theorem witness_EveryStepKeepsTheInvariant : ∃ s t : State, s.Inv ∧ step s = .next t :=
  ⟨{ State.reset with inbox := [.load [0x12, 0x00]] }, _,
    ⟨Memory.wf_empty _, by decide, by simp [State.reset], fun _ => rfl, fun _ => rfl, by simp [State.reset]⟩, rfl⟩

end Sys2Proof.Tests
end

section
/-! The family of spec/40_cycle.md: MODE after a completed step (R87) and the unrecognised word (R90). -/

namespace Sys2Proof.Machine

/-- The empty snapshot is the one in which each of the 16 keys is up (R32). -/
theorem keys_eq_zero_iff {keys : Keys} : keys = 0 ↔ ∀ k < 16, keys.getLsbD k = false := by
  constructor
  · rintro rfl k _
    simp
  · intro h
    exact BitVec.eq_of_getLsbD_eq fun k hk => by simpa using h k hk

/-- R87: the fetch sets MODE to RUNNING, and of all completed forms only the waiting Fx0A sets it again. -/
theorem Completes.mode_eq_awaitingKey_iff {i : Instr} {s t : State} (h : Completes i s t) :
    t.mode = .awaitingKey ↔ (∃ x, i = .ldVxK x) ∧ s.keysIn = 0 := by
  cases h with
  | wait _ x hnone => simp [hnone]
  | key _ x k hkey =>
    have hdown : s.keysIn ≠ 0 := fun hnone => by simp [firstKey_none.mpr hnone] at hkey
    simpa using hdown
  | _ => simp

/-- Settles O24, from the completed forms of the instructions (R87). -/
theorem modeAwaitsAKeyOnlyAfterFx0A : Obligations.ModeAwaitsAKeyOnlyAfterFx0A := by
  intro i s t _ hexec hfault
  constructor
  · rw [(exec_completes hexec hfault).mode_eq_awaitingKey_iff, keys_eq_zero_iff]
  · cases t.mode with
    | running => exact .inl rfl
    | awaitingKey => exact .inr rfl

/-- Settles O46: the step of an unrecognised word is the fetch and the outputs, with no rule between them (R90). -/
theorem unrecognisedWordIsANoOp : Obligations.UnrecognisedWordIsANoOp :=
  fun s w => exec_unrecognised s w

end Sys2Proof.Machine
end

section
/-! The family of spec/41_control_flow.md: the jumps (R94, R100) and the skips on registers (R96 to R99). -/

namespace Sys2Proof.Machine

/-- nnn is zero-extended to the width of PC (R94). -/
theorem addrWord_toNat (nnn : Addr) : (addrWord nnn).toNat = nnn.toNat :=
  BitVec.toNat_setWidth_of_le (by decide)

/-- R100: the sum is at most 0x10FE, so 16 bits hold it unreduced. -/
theorem jumpV0Target_toNat (nnn : Addr) (v0 : Byte) : (jumpV0Target nnn v0).toNat = nnn.toNat + v0.toNat := by
  have hnnn : nnn.toNat < 0x1000 := nnn.isLt
  have hv0 : v0.toNat < 0x100 := v0.isLt
  rw [jumpV0Target, BitVec.toNat_ofNat, Nat.mod_eq_of_lt (by omega)]

/-- A step whose rule is a jump changes PC on top of the bookkeeping of every completed step (R81). -/
theorem State.finished_jump_fetched (s : State) {i : Instr} (hi : i.redraws = false) (p : Word) :
    ((s.fetched (encode i)).jump p).finished false = { s.stepped i with pc := p } := by
  rw [State.stepped, hi]
  rfl

/-- The two increments of PC, by the fetch (R83) and by a skip that is taken. -/
theorem State.skipIf_fetched (s : State) (w : Word) (c : Bool) :
    (s.fetched w).skipIf c = (s.fetched w).jump (if c then s.pc + 4 else s.pc + 2) := by
  cases c with
  | false => rfl
  | true =>
    have hpc : s.pc + 2 + 2 = s.pc + 4 := BitVec.add_assoc s.pc 2 2
    exact congrArg (s.fetched w).jump hpc

/-- A step whose rule is a skip passes one more word exactly when its condition holds (R96 to R99). -/
theorem State.finished_skipIf_fetched (s : State) {i : Instr} (hi : i.redraws = false) (c : Bool) :
    ((s.fetched (encode i)).skipIf c).finished false =
      { s.stepped i with pc := if c then s.pc + 4 else s.pc + 2 } := by
  rw [State.skipIf_fetched, State.finished_jump_fetched s hi]

/-- Settles O40, from the target of each jump as a natural number (R94, R100). -/
theorem jumpsSetPC : Obligations.JumpsSetPC := by
  intro s nnn
  constructor
  · exact ⟨addrWord nnn, by rw [exec_jp, State.finished_jump_fetched s rfl], addrWord_toNat nnn⟩
  · exact ⟨jumpV0Target nnn (s.reg 0), by rw [exec_jpV0, State.finished_jump_fetched s rfl], jumpV0Target_toNat nnn (s.reg 0)⟩

/-- Settles O44: each of the four forms is a skip on the equality of two bytes or on its negation (R96 to R99). -/
theorem registerSkips : Obligations.RegisterSkips := by
  intro s x y nn
  refine ⟨?seImm, ?sneImm, ?seReg, ?sneReg⟩
  case seImm => simp [exec_seImm, State.finished_skipIf_fetched s (i := .seImm x nn) rfl, BitVec.toNat_inj]
  case sneImm => simp [exec_sneImm, State.finished_skipIf_fetched s (i := .sneImm x nn) rfl, BitVec.toNat_inj]
  case seReg => simp [exec_seReg, State.finished_skipIf_fetched s (i := .seReg x y) rfl, BitVec.toNat_inj]
  case sneReg => simp [exec_sneReg, State.finished_skipIf_fetched s (i := .sneReg x y) rfl, BitVec.toNat_inj]

end Sys2Proof.Machine
end

section
/-! The family of spec/42_alu.md: loads and addition of an immediate (R101, R102), assignment and logic (R104 to R107), and the sum
with carry (R108). -/

namespace Sys2Proof.Machine

/-- A rule that writes Vx alone: its step is the bookkeeping of R81 and a register file that holds the byte at x and the old value
everywhere else. -/
theorem exec_spec_of_setReg {s : State} {i : Instr} {x : Reg} {b : Byte} (hi : i.redraws = false)
    (hexec : exec i s = .next (((s.fetched (encode i)).setReg x b).finished false)) :
    ∃ v, exec i s = .next { s.stepped i with v := v } ∧ v[x.val] = b ∧ ∀ z : Reg, z ≠ x → v[z.val] = s.reg z := by
  refine ⟨(s.setReg x b).v, ?step, ?result, ?frame⟩
  case step =>
    rw [hexec, State.stepped, hi]
    rfl
  case result => exact (s.reg_setReg x x b).trans (if_pos rfl)
  case frame => exact fun z hz => (s.reg_setReg x z b).trans (if_neg hz.symm)

/-- A rule that writes a result to Vx and then the flag to VF (R22, R103): as `exec_spec_of_setReg`, with VF the flag whatever x is,
and Vx the result unless the flag has overwritten it. -/
theorem exec_spec_of_setRegFlag {s : State} {i : Instr} {x : Reg} {b : Byte} {c : Bool} (hi : i.redraws = false)
    (hexec : exec i s = .next (((s.fetched (encode i)).setRegFlag x b c).finished false)) :
    ∃ v, exec i s = .next { s.stepped i with v := v } ∧ v[VF.val] = flagByte c ∧ (x ≠ VF → v[x.val] = b) ∧
      ∀ z : Reg, z ≠ x → z ≠ VF → v[z.val] = s.reg z := by
  have hreg (z : Reg) := s.reg_setRegFlag x z b c
  refine ⟨(s.setRegFlag x b c).v, ?step, ?flag, ?result, ?frame⟩
  case step =>
    rw [hexec, State.stepped, hi]
    rfl
  case flag => exact (hreg VF).trans (if_pos rfl)
  case result => exact fun hx => (hreg x).trans ((if_neg hx.symm).trans (if_pos rfl))
  case frame => exact fun z hzx hzf => (hreg z).trans ((if_neg hzf.symm).trans (if_neg hzx.symm))

/-- The carry as a number (R108). -/
theorem flagByte_carry_toNat (a b : Byte) : (flagByte (carry a b)).toNat = if a.toNat + b.toNat > 255 then 1 else 0 := by
  rw [flagByte_toNat, carry]
  simp only [decide_eq_true_eq]

/-- Settles O34: each form writes one byte to Vx, nn itself (R101) or the sum of Vx and nn (R102). -/
theorem immediateLoadAndAdd : Obligations.ImmediateLoadAndAdd := by
  intro s x nn
  constructor
  · exact exec_spec_of_setReg rfl (exec_ldImm s x nn)
  · obtain ⟨v, hstep, hx, hframe⟩ := exec_spec_of_setReg rfl (exec_addImm s x nn)
    exact ⟨v, hstep, by rw [hx, sumByte_toNat], hframe⟩

/-- Settles O35: each form writes to Vx the one byte whose bits its connective gives (R104 to R107). -/
theorem assignAndLogic : Obligations.AssignAndLogic := by
  intro s x y i f hform
  obtain ⟨hi, b, hexec, hbits⟩ : i.redraws = false ∧ ∃ b,
      exec i s = .next (((s.fetched (encode i)).setReg x b).finished false) ∧
      ∀ k < 8, b.getLsbD k = f ((s.reg x).getLsbD k) ((s.reg y).getLsbD k) := by
    obtain ⟨rfl, rfl⟩ | ⟨rfl, rfl⟩ | ⟨rfl, rfl⟩ | ⟨rfl, rfl⟩ := hform
    · exact ⟨rfl, s.reg y, exec_ldReg s x y, fun _ _ => rfl⟩
    · exact ⟨rfl, s.reg x ||| s.reg y, exec_orReg s x y, fun _ _ => BitVec.getLsbD_or⟩
    · exact ⟨rfl, s.reg x &&& s.reg y, exec_andReg s x y, fun _ _ => BitVec.getLsbD_and⟩
    · exact ⟨rfl, s.reg x ^^^ s.reg y, exec_xorReg s x y, fun _ _ => BitVec.getLsbD_xor⟩
  obtain ⟨v, hstep, hx, hframe⟩ := exec_spec_of_setReg hi hexec
  exact ⟨v, hstep, by rwa [hx], hframe⟩

/-- Settles O36: the sum goes to Vx and the carry, last, to VF (R22, R108). -/
theorem addWithCarry : Obligations.AddWithCarry := by
  intro s x y
  obtain ⟨v, hstep, hflag, hx, hframe⟩ := exec_spec_of_setRegFlag rfl (exec_addReg s x y)
  exact ⟨v, hstep, by rw [hflag, flagByte_carry_toNat], fun hne => by rw [hx hne, sumByte_toNat], hframe⟩

end Sys2Proof.Machine
end

section
/-! The family of spec/45_keys_timers.md: the wait for a key (R130). -/

namespace Sys2Proof.Machine

/-- The key that is found is the one pressed key of the snapshot below which no other is (R130). -/
theorem firstKey_eq_some_iff {keys : Keys} {k : Nat} :
    firstKey keys = some k ↔ k < 16 ∧ keys.getLsbD k = true ∧ ∀ j < k, keys.getLsbD j = false := by
  refine ⟨firstKey_some, fun ⟨hk, hdown, hleast⟩ => ?_⟩
  cases hfirst : firstKey keys with
  | none => simp [firstKey_none.mp hfirst] at hdown
  | some m =>
    obtain ⟨-, hmdown, hmleast⟩ := firstKey_some hfirst
    have hmk : ¬ m < k := fun h => by simp [hleast m h] at hmdown
    have hkm : ¬ k < m := fun h => by simp [hmleast k h] at hdown
    exact congrArg some (by omega)

/-- A step that waits takes back the fetch's increment of PC, so the same word is fetched again (R83, R130). -/
theorem State.finished_waitForKey_fetched (s : State) (x : Reg) :
    (s.fetched (encode (.ldVxK x))).waitForKey.finished false =
      { s.stepped (.ldVxK x) with pc := s.pc, mode := .awaitingKey } := by
  have hpc : s.pc + 2 - 2 = s.pc := BitVec.add_sub_cancel s.pc 2
  exact congrArg (fun pc => { s.stepped (.ldVxK x) with pc := pc, mode := .awaitingKey }) hpc

/-- Settles O56: the wait is a step back to its own word, and the take a rule that writes the key's number to Vx alone (R130). -/
theorem waitForKeyTakesTheLeastKey : Obligations.WaitForKeyTakesTheLeastKey := by
  intro s x
  constructor
  · intro hnone
    rw [exec_ldVxK_wait s x (keys_eq_zero_iff.mpr hnone), State.finished_waitForKey_fetched]
  · intro k hk hdown hleast
    have hkey : firstKey s.keysIn = some k := firstKey_eq_some_iff.mpr ⟨hk, hdown, hleast⟩
    obtain ⟨v, hstep, hx, hframe⟩ := exec_spec_of_setReg rfl (exec_ldVxK_key s x hkey)
    exact ⟨v, hstep, by rw [hx, BitVec.toNat_ofNat, Nat.mod_eq_of_lt (by omega)], hframe⟩

end Sys2Proof.Machine
end

section
/-! The family of spec/30_encoding.md: encoder and decoder are inverse (R66, R68), and what the decoder gives a word (R69, R71). -/

namespace Sys2Proof

/-- Settles O4: one round trip per layout and row, for every operand (`Laws.RoundTrip`). -/
theorem decodeReadsBackEveryEncodedInstruction : Obligations.DecodeReadsBackEveryEncodedInstruction := by
  intro i
  cases i with
  | cls => exact Laws.RoundTrip.cls
  | ret => exact Laws.RoundTrip.ret
  | jp nnn => exact Laws.RoundTrip.jp nnn
  | call nnn => exact Laws.RoundTrip.call nnn
  | seImm x nn => exact Laws.RoundTrip.seImm x nn
  | sneImm x nn => exact Laws.RoundTrip.sneImm x nn
  | seReg x y => exact Laws.RoundTrip.seReg x y
  | ldImm x nn => exact Laws.RoundTrip.ldImm x nn
  | addImm x nn => exact Laws.RoundTrip.addImm x nn
  | ldReg x y => exact Laws.RoundTrip.ldReg x y
  | orReg x y => exact Laws.RoundTrip.orReg x y
  | andReg x y => exact Laws.RoundTrip.andReg x y
  | xorReg x y => exact Laws.RoundTrip.xorReg x y
  | addReg x y => exact Laws.RoundTrip.addReg x y
  | sub x y => exact Laws.RoundTrip.sub x y
  | shr x y => exact Laws.RoundTrip.shr x y
  | subn x y => exact Laws.RoundTrip.subn x y
  | shl x y => exact Laws.RoundTrip.shl x y
  | sneReg x y => exact Laws.RoundTrip.sneReg x y
  | ldI nnn => exact Laws.RoundTrip.ldI nnn
  | jpV0 nnn => exact Laws.RoundTrip.jpV0 nnn
  | rnd x nn => exact Laws.RoundTrip.rnd x nn
  | drw x y n => exact Laws.RoundTrip.drw x y n
  | skp x => exact Laws.RoundTrip.skp x
  | sknp x => exact Laws.RoundTrip.sknp x
  | ldVxDT x => exact Laws.RoundTrip.ldVxDT x
  | ldVxK x => exact Laws.RoundTrip.ldVxK x
  | ldDTVx x => exact Laws.RoundTrip.ldDTVx x
  | ldSTVx x => exact Laws.RoundTrip.ldSTVx x
  | addI x => exact Laws.RoundTrip.addI x
  | ldF x => exact Laws.RoundTrip.ldF x
  | ldB x => exact Laws.RoundTrip.ldB x
  | ldStore x => exact Laws.RoundTrip.ldStore x
  | ldLoad x => exact Laws.RoundTrip.ldLoad x
  | unrecognised w => exact Laws.RoundTrip.unrecognised w

/-- Settles O5, from the two laws of the decoded term. -/
theorem everyWordDecodesAndKeepsItsBits : Obligations.EveryWordDecodesAndKeepsItsBits :=
  fun w => ⟨wf_decode w, encode_decode w⟩

/-- Settles O3: the words are closed, so the decoder evaluates on each. -/
theorem writtenWordsDecodeToTheirInstructions : Obligations.WrittenWordsDecodeToTheirInstructions := by
  unfold Obligations.WrittenWordsDecodeToTheirInstructions
  decide

/-! ### A word that satisfies a row is the row's layout of its own fields (R68, R69) -/

theorem eq_of_and_FFFF {b w : Word} (h : w &&& 0xFFFF#16 = b) : b = w := by
  simpa [h, eq_comm] using matches_FFFF b w

theorem opField_of_and_F000 {o : BitVec 4} {w : Word} (h : w &&& 0xF000#16 = BitVec.ofNat 16 (o.toNat * 0x1000)) :
    opField w = o := by
  simpa [h] using (matches_F000 o w).symm

theorem fields_of_and_F00F {o : BitVec 4} {n : Fin 16} {w : Word}
    (h : w &&& 0xF00F#16 = BitVec.ofNat 16 (o.toNat * 0x1000 + n.val)) : opField w = o ∧ nField w = n := by
  simpa [h] using (matches_F00F o n w).symm

theorem fields_of_and_F0FF {o : BitVec 4} {b : Byte} {w : Word}
    (h : w &&& 0xF0FF#16 = BitVec.ofNat 16 (o.toNat * 0x1000 + b.toNat)) : opField w = o ∧ nnField w = b := by
  simpa [h] using (matches_F0FF o b w).symm

theorem encNNN_of_row {o : BitVec 4} {w : Word} (h : w &&& 0xF000#16 = BitVec.ofNat 16 (o.toNat * 0x1000)) :
    encNNN o (nnnField w) = w :=
  encNNN_of_op (opField_of_and_F000 h)

theorem encXNN_of_row {o : BitVec 4} {w : Word} (h : w &&& 0xF000#16 = BitVec.ofNat 16 (o.toNat * 0x1000)) :
    encXNN o (xField w) (nnField w) = w :=
  encXNN_of_op (opField_of_and_F000 h)

theorem encXYN_of_row {o : BitVec 4} {w : Word} (h : w &&& 0xF000#16 = BitVec.ofNat 16 (o.toNat * 0x1000)) :
    encXYN o (xField w) (yField w) (nField w) = w :=
  encXYN_of_op (opField_of_and_F000 h)

theorem encXY_of_row {o : BitVec 4} {n : Fin 16} {w : Word}
    (h : w &&& 0xF00F#16 = BitVec.ofNat 16 (o.toNat * 0x1000 + n.val)) : encXYN o (xField w) (yField w) n = w :=
  have ⟨hop, hn⟩ := fields_of_and_F00F h
  encXYN_of_fields hop hn

theorem encX_of_row {o : BitVec 4} {b : Byte} {w : Word}
    (h : w &&& 0xF0FF#16 = BitVec.ofNat 16 (o.toNat * 0x1000 + b.toNat)) : encXNN o (xField w) b = w :=
  have ⟨hop, hnn⟩ := fields_of_and_F0FF h
  encXNN_of_fields hop hnn

/-- The word an instruction encodes to is decoded to that instruction. -/
theorem decode_of_encode_eq {i : Instr} {w : Word} (hi : i.wf = true) (h : encode i = w) : decode w = i :=
  h ▸ decodeReadsBackEveryEncodedInstruction i hi

/-- Settles O6: a word that satisfies a row is the encoding of the row's instruction with the word's fields, and the decoder reads
that back (`decode_of_encode_eq`). -/
theorem matchingARowDecodesToItsInstruction : Obligations.MatchingARowDecodesToItsInstruction := by
  intro w
  refine ⟨?cls, ?ret, ?jp, ?call, ?seImm, ?sneImm, ?seReg, ?ldImm, ?addImm, ?ldReg, ?orReg, ?andReg, ?xorReg, ?addReg, ?sub, ?shr,
    ?subn, ?shl, ?sneReg, ?ldI, ?jpV0, ?rnd, ?drw, ?skp, ?sknp, ?ldVxDT, ?ldVxK, ?ldDTVx, ?ldSTVx, ?addI, ?ldF, ?ldB, ?ldStore,
    ?ldLoad⟩ <;> intro hrow
  case cls | ret => exact decode_of_encode_eq rfl (eq_of_and_FFFF hrow)
  case jp | call | ldI | jpV0 => exact decode_of_encode_eq rfl (encNNN_of_row hrow)
  case seImm | sneImm | ldImm | addImm | rnd => exact decode_of_encode_eq rfl (encXNN_of_row hrow)
  case drw => exact decode_of_encode_eq rfl (encXYN_of_row hrow)
  case seReg | ldReg | orReg | andReg | xorReg | addReg | sub | shr | subn | shl | sneReg =>
    exact decode_of_encode_eq rfl (encXY_of_row hrow)
  case skp | sknp | ldVxDT | ldVxK | ldDTVx | ldSTVx | addI | ldF | ldB | ldStore | ldLoad =>
    exact decode_of_encode_eq rfl (encX_of_row hrow)

/-! ### The unrecognised words (R71) -/

/-- The decoder falls back exactly where no row of the table matches (R69, R71). -/
theorem decode_eq_unrecognised_iff (w : Word) : decode w = .unrecognised w ↔ recognised w = false := by
  refine ⟨fun h => ?_, decode_of_not_recognised⟩
  have hwf := wf_decode w
  rw [h] at hwf
  simpa [Instr.wf] using hwf

theorem le_0FFF_iff (w : Word) : w.toNat ≤ 0x0FFF ↔ opField w = 0x0 := by
  rw [← BitVec.toNat_inj, opField_toNat]
  simp only [BitVec.ofNat_eq_ofNat, BitVec.toNat_ofNat]
  omega

theorem nField_eq_iff (w : Word) (n : Fin 16) : nField w = n ↔ w.toNat % 0x10 = n.val := by
  rw [Fin.ext_iff, nField_val]

theorem nnField_eq_iff (w : Word) (b : Byte) : nnField w = b ↔ w.toNat % 0x100 = b.toNat := by
  rw [← BitVec.toNat_inj, nnField_toNat]

theorem ne_fixed_of_op {w : Word} (h : opField w ≠ 0x0) : w ≠ 0x00E0#16 ∧ w ≠ 0x00EE#16 :=
  ⟨ne_00E0_of_op h, ne_00EE_of_op h⟩

/-- Settles O7, by the op digit: where one row takes all its words both sides are false, for 0x0 the two fixed words decide, and for 0x5,
0x8, 0x9, 0xE and 0xF the low digit or the low byte. -/
theorem unrecognisedWordsAreExactlyTheList : Obligations.UnrecognisedWordsAreExactlyTheList := by
  intro w
  rw [decode_eq_unrecognised_iff, recognised_eq, le_0FFF_iff, ← opField_toNat]
  by_cases hop0 : opField w = 0x0
  · simp [hop0]
  · obtain ⟨hcls, hret⟩ := ne_fixed_of_op hop0
    have hdigit : w.toNat % 0x10 < 0x10 := Nat.mod_lt _ (by decide)
    rcases op_cases (opField w) with h | h | h | h | h | h | h | h | h | h | h | h | h | h | h | h <;>
      simp [h, hcls, hret, nField_eq_iff, nnField_eq_iff, and_assoc]
    -- What is left is op 0x8: the low digit is none of nine values exactly when it is one of the other seven.
    omega

end Sys2Proof
end

section
/-! The family of spec/10_state.md and spec/40_cycle.md: what a completed step may change, field by field, and the statements that follow
(R22 to R31, R34, R51, R82, R83, R86, R91). -/

namespace Sys2Proof.Machine

/-! ### A row of stored bytes, inside and outside (R51) -/

theorem Memory.read_writeAll_add {m : Memory} (hwf : m.wf) {a : Nat} {bytes : List Byte} (hin : a + bytes.length ≤ 0x1000) {k : Nat}
    (hk : k < bytes.length) : (m.writeAll a bytes).read (a + k) = bytes[k] := by
  rw [Memory.read_writeAll hwf hin, dif_pos (by omega)]
  simp only [Nat.add_sub_cancel_left]

theorem Memory.read_writeAll_outside {m : Memory} (hwf : m.wf) {a c : Nat} {bytes : List Byte} (hin : a + bytes.length ≤ 0x1000)
    (hc : c < a ∨ a + bytes.length ≤ c) : (m.writeAll a bytes).read c = m.read c := by
  rw [Memory.read_writeAll hwf hin, dif_neg (by omega)]

/-! ### Operands, for the table of R24 -/

/-- A key that is found is pressed, so the snapshot is not empty (R130). -/
theorem ne_zero_of_firstKey {keys : Keys} {k : Nat} (h : firstKey keys = some k) : keys ≠ 0 := fun hnone => by
  simp [firstKey_none.mpr hnone] at h

/-- The target of Bnnn as the sum of two words (R100). -/
theorem jumpV0Target_eq (nnn : Addr) (v0 : Byte) : jumpV0Target nnn v0 = nnn.setWidth 16 + v0.setWidth 16 := by
  have hnnn : nnn.toNat < 0x1000 := nnn.isLt
  have hv0 : v0.toNat < 0x100 := v0.isLt
  apply BitVec.eq_of_toNat_eq
  rw [jumpV0Target_toNat, BitVec.toNat_add, BitVec.toNat_setWidth, BitVec.toNat_setWidth]
  omega

theorem State.skipIf_fetched_pc (s : State) (w : Word) (c : Bool) :
    ((s.fetched w).skipIf c).pc = if c then s.pc + 4 else s.pc + 2 := by
  rw [s.skipIf_fetched, State.jump_pc]

/-! ### What a completed step leaves in each field -/

section
variable {i : Instr} {s t : State}

theorem Completes.k_eq (h : Completes i s t) : t.k = s.keysIn := by
  cases h with | _ => rfl

theorem Completes.lastOp_eq (h : Completes i s t) : t.lastOp = encode i := by
  cases h with | _ => rfl

theorem Completes.fault_eq (h : Completes i s t) : t.fault = s.fault := by
  cases h with | _ => rfl

theorem Completes.loaded_eq (h : Completes i s t) : t.loaded = s.loaded := by
  cases h with | _ => rfl

theorem Completes.keysIn_eq (h : Completes i s t) : t.keysIn = s.keysIn := by
  cases h with | _ => rfl

theorem Completes.inbox_eq (h : Completes i s t) : t.inbox = s.inbox := by
  cases h with | _ => rfl

theorem Completes.schedule_eq (h : Completes i s t) : t.schedule = s.schedule := by
  cases h with | _ => rfl

theorem Completes.draws_eq (h : Completes i s t) (hi : ¬ ∃ x nn, i = .rnd x nn) : t.draws = s.draws := by
  cases h with
  | rnd _ x nn => exact absurd ⟨x, nn, rfl⟩ hi
  | _ => rfl

theorem Completes.reply_eq (h : Completes i s t) : t.reply = .stepOk i.redraws t.tone := by
  cases h with | _ => rfl

theorem Completes.i_eq (h : Completes i s t) (hldI : ∀ nnn, i ≠ .ldI nnn) (haddI : ∀ x, i ≠ .addI x) (hldF : ∀ x, i ≠ .ldF x) :
    t.i = s.i := by
  cases h with
  | ldI _ nnn => exact absurd rfl (hldI nnn)
  | addI _ x => exact absurd rfl (haddI x)
  | ldF _ x => exact absurd rfl (hldF x)
  | _ => rfl

theorem Completes.stack_eq (h : Completes i s t) (hcall : ∀ nnn, i ≠ .call nnn) : t.stack = s.stack := by
  cases h with
  | call _ nnn => exact absurd rfl (hcall nnn)
  | _ => rfl

theorem Completes.sp_eq (h : Completes i s t) (hcall : ∀ nnn, i ≠ .call nnn) (hret : i ≠ .ret) : t.sp = s.sp := by
  cases h with
  | call _ nnn => exact absurd rfl (hcall nnn)
  | ret => exact absurd rfl hret
  | _ => rfl

theorem Completes.dt_eq (h : Completes i s t) (hi : ∀ x, i ≠ .ldDTVx x) : t.dt = s.dt := by
  cases h with
  | ldDTVx _ x => exact absurd rfl (hi x)
  | _ => rfl

theorem Completes.st_eq (h : Completes i s t) (hi : ∀ x, i ≠ .ldSTVx x) : t.st = s.st := by
  cases h with
  | ldSTVx _ x => exact absurd rfl (hi x)
  | _ => rfl

theorem Completes.disp_eq (h : Completes i s t) (hcls : i ≠ .cls) (hdrw : ∀ x y n, i ≠ .drw x y n) : t.disp = s.disp := by
  cases h with
  | cls => exact absurd rfl hcls
  | drw _ x y n => exact absurd rfl (hdrw x y n)
  | _ => rfl

theorem length_decimalDigits (b : Byte) : (decimalDigits b).length = 3 := rfl

/-- Memory after a completed step: the bytes an instruction stores, which all lie inside memory, written from I on (R51). -/
theorem Completes.mem_eq (h : Completes i s t) : ∃ bytes : List Byte, bytes.length = i.stores ∧
    (bytes ≠ [] → s.i.toNat + bytes.length ≤ 0x1000) ∧ t.mem = s.mem.writeAll s.i.toNat bytes := by
  cases h with
  | ldB _ x hi => exact ⟨decimalDigits (s.reg x), rfl, fun _ => by rw [length_decimalDigits]; omega, rfl⟩
  | ldStore _ x hi => exact ⟨s.regsTo x, s.length_regsTo x, fun _ => by rw [s.length_regsTo]; omega, rfl⟩
  | _ => exact ⟨[], rfl, fun hne => absurd rfl hne, rfl⟩

theorem Completes.font_eq (h : Completes i s t) : t.mem.font = s.mem.font := by
  obtain ⟨bytes, -, -, hmem⟩ := h.mem_eq
  rw [hmem, Memory.font_writeAll]

/-- A completed step keeps the canonical form of memory (log 15). -/
theorem Completes.mem_wf (h : Completes i s t) (hwf : s.mem.wf) : t.mem.wf := by
  obtain ⟨bytes, -, hin, hmem⟩ := h.mem_eq
  rw [hmem]
  by_cases hb : bytes = []
  · rwa [hb]
  · exact Memory.wf_writeAll hwf (hin hb)

/-- No byte outside the stored ones changes (R51). -/
theorem Completes.mem_read_eq (h : Completes i s t) (hwf : s.mem.wf) {a : Nat}
    (ha : a < s.i.toNat ∨ s.i.toNat + i.stores ≤ a) : t.mem.read a = s.mem.read a := by
  obtain ⟨bytes, hlen, hin, hmem⟩ := h.mem_eq
  rw [hmem]
  by_cases hb : bytes = []
  · rw [hb, Memory.writeAll]
  · exact Memory.read_writeAll_outside hwf (hin hb) (hlen ▸ ha)

/-- PC after a completed step, by the table of R24. -/
theorem Completes.pc_eq (h : Completes i s t) : t.pc = i.pcAfter s := by
  cases h with
  | ret _ h0 => simp [Instr.pcAfter, h0]
  | jpV0 _ nnn => exact jumpV0Target_eq nnn (s.reg 0)
  | seImm | sneImm | seReg | sneReg | skp => exact (s.skipIf_fetched_pc _ _).trans (by simp [Instr.pcAfter])
  | sknp _ x =>
    refine (s.skipIf_fetched_pc _ _).trans ?_
    cases hdown : s.keysIn.getLsbD (s.reg x).toNat <;> simp [Instr.pcAfter, hdown]
  | wait _ _ hnone => exact (BitVec.add_sub_cancel s.pc 2).trans (if_pos hnone).symm
  | key _ _ k hkey => exact (if_neg (ne_zero_of_firstKey hkey)).symm
  | _ => rfl

/-- The registers a completed step leaves alone (R22, R23). -/
theorem Completes.reg_eq (h : Completes i s t) {y : Reg} (hy : ¬ i.writes y) : t.reg y = s.reg y := by
  cases h with
  | ldImm | addImm | ldReg | orReg | andReg | xorReg | rnd | ldVxDT | key =>
    exact (State.reg_setReg _ _ y _).trans (if_neg (Ne.symm hy))
  | addReg | sub | shr | subn | shl =>
    obtain ⟨hyx, hyf⟩ := not_or.mp hy
    exact (State.reg_setRegFlag _ _ y _ _).trans ((if_neg (Ne.symm hyf)).trans (if_neg (Ne.symm hyx)))
  | drw => exact (State.reg_drawSprite _ _ _ _ y).trans (if_neg (Ne.symm hy))
  | ldLoad _ x hi =>
    have hlen : ¬ y.val < ((List.range (x.val + 1)).map fun k => s.mem.read (s.i.toNat + k)).length := by
      simpa [Nat.lt_succ_iff, Instr.writes] using hy
    exact (State.reg_setRegs _ (by simp) y).trans (dif_neg hlen)
  | _ => rfl

end

/-! ### The flags and the collision (R22, R124) -/

theorem flagByte_noBorrow_toNat (a b : Byte) : (flagByte (noBorrow a b)).toNat = if a.toNat > b.toNat then 1 else 0 := by
  rw [flagByte_toNat, noBorrow]
  simp only [decide_eq_true_eq]

theorem flagByte_lowBit_toNat (a : Byte) : (flagByte (lowBit a)).toNat = a.toNat % 2 := by
  rw [flagByte_toNat, lowBit_eq]
  simp only [decide_eq_true_eq]
  split <;> omega

theorem flagByte_highBit_toNat (a : Byte) : (flagByte (highBit a)).toNat = a.toNat / 128 := by
  have := a.isLt
  rw [flagByte_toNat, highBit_eq]
  simp only [decide_eq_true_eq]
  split <;> omega

theorem flagByte_toNat_eq_one_iff (c : Bool) : (flagByte c).toNat = 1 ↔ c = true := by
  cases c <;> decide

theorem flagByte_toNat_zero_or_one (c : Bool) : (flagByte c).toNat = 0 ∨ (flagByte c).toNat = 1 := by
  cases c <;> decide

/-- The sprite hits exactly where a set cell is cleared (R124). -/
theorem drawSprite_hit_iff_cleared (s : State) (x0 y0 : Nat) {rows : List Byte} (hrows : rows.length ≤ 15) :
    (toggleAll s.disp false (spriteCells x0 y0 rows)).2 = true ↔
      ∃ c < 2048, s.disp.getLsbD c = true ∧ (s.drawSprite x0 y0 rows).disp.getLsbD c = false := by
  obtain ⟨hdisp, hhit⟩ := drawSprite_spec s x0 y0 rows hrows
  rw [hhit]
  refine exists_congr fun c => and_congr_right fun hc => and_congr_right fun hset => ?_
  rw [← hdisp c hc, hset, ne_eq, Bool.not_eq_true]

/-! ### The statements -/

/-- Settles O23, from the fields a completed step leaves. -/
theorem completedStepLatchesKeysAndWord : Obligations.CompletedStepLatchesKeysAndWord := by
  intro i s t _ hexec hfault
  have hstep := exec_completes hexec hfault
  refine ⟨hstep.k_eq, hstep.lastOp_eq, hstep.fault_eq, hstep.loaded_eq, hstep.font_eq, hstep.keysIn_eq, hstep.inbox_eq,
    hstep.schedule_eq, ?_, hstep.draws_eq⟩
  rintro ⟨x, nn, rfl⟩
  cases hstep with | rnd => rfl

theorem redraws_eq_true_iff (i : Instr) : i.redraws = true ↔ i = .cls ∨ ∃ x y n, i = .drw x y n := by
  cases i with | _ => simp [Instr.redraws]

/-- The tone is on exactly while ST is 1 (R137). -/
theorem State.tone_eq_true_iff (s : State) : s.tone = true ↔ s.st.toNat = 1 := by
  rw [State.tone, beq_iff_eq, ← BitVec.toNat_inj]
  rfl

/-- Settles O25, from the outputs a completed step returns. -/
theorem stepOutputsDirtyAndTone : Obligations.StepOutputsDirtyAndTone := by
  intro i s t _ hexec hfault
  exact ⟨i.redraws, t.tone, (exec_completes hexec hfault).reply_eq, t.tone_eq_true_iff, redraws_eq_true_iff i⟩

/-- Settles O26, by the completed form of each instruction (`Completes.pc_eq`). -/
theorem programCounterFollowsTheTable : Obligations.ProgramCounterFollowsTheTable :=
  fun _ _ _ _ hexec hfault => (exec_completes hexec hfault).pc_eq

/-- Settles O27, by the completed form of each instruction (`Completes.reg_eq`). -/
theorem onlyTheTabledRegistersChange : Obligations.OnlyTheTabledRegistersChange :=
  fun _ _ _ _ hexec hfault _ => (exec_completes hexec hfault).reg_eq

/-- Settles O28: each of the six forms writes its flag last, and every other leaves VF by the register table. -/
theorem flagIsWrittenLastByExactlySixInstructions : Obligations.FlagIsWrittenLastByExactlySixInstructions := by
  intro i s t _ hexec hfault
  have hstep := exec_completes hexec hfault
  refine ⟨?addReg, ?sub, ?subn, ?shr, ?shl, ?drw, fun _ => hstep.reg_eq⟩
  case addReg => rintro x y rfl; cases hstep; simp [flagByte_carry_toNat]
  case sub => rintro x y rfl; cases hstep; simp [flagByte_noBorrow_toNat]
  case subn => rintro x y rfl; cases hstep; simp [flagByte_noBorrow_toNat]
  case shr => rintro x y rfl; cases hstep; simp [flagByte_lowBit_toNat]
  case shl => rintro x y rfl; cases hstep; simp [flagByte_highBit_toNat]
  case drw =>
    rintro x y n rfl
    cases hstep with
    | drw =>
      rw [State.reg_finished, State.reg_drawSprite, if_pos rfl]
      exact ⟨flagByte_toNat_zero_or_one _, (flagByte_toNat_eq_one_iff _).trans (drawSprite_hit_iff_cleared _ _ _ (by simp; omega))⟩

/-- Settles O29: every other completed form leaves I (`Completes.i_eq`). -/
theorem onlyThreeInstructionsWriteI : Obligations.OnlyThreeInstructionsWriteI :=
  fun _ _ _ _ hexec hfault => (exec_completes hexec hfault).i_eq

/-- Settles O30: every other completed form leaves STACK and SP (`Completes.stack_eq`, `Completes.sp_eq`). -/
theorem onlyCallAndReturnTouchTheStack : Obligations.OnlyCallAndReturnTouchTheStack := by
  intro i s t _ hexec hfault
  have hstep := exec_completes hexec hfault
  exact ⟨hstep.stack_eq, hstep.sp_eq⟩

/-- Settles O31: every other completed form leaves the timer (`Completes.dt_eq`, `Completes.st_eq`). -/
theorem onlyFx15AndFx18ChangeTimersInAStep : Obligations.OnlyFx15AndFx18ChangeTimersInAStep := by
  intro i s t _ hexec hfault
  have hstep := exec_completes hexec hfault
  exact ⟨hstep.dt_eq, hstep.st_eq⟩

/-- Settles O32: every other completed form leaves the buffer (`Completes.disp_eq`). -/
theorem onlyClearAndDrawChangeTheDisplay : Obligations.OnlyClearAndDrawChangeTheDisplay :=
  fun _ _ _ _ hexec hfault => (exec_completes hexec hfault).disp_eq

/-- Settles O33: memory after the step is the stored row over the old memory (`Completes.mem_eq`). -/
theorem memoryOutsideTheStoredBytesIsUnchanged : Obligations.MemoryOutsideTheStoredBytesIsUnchanged :=
  fun _ _ _ _ hwf hexec hfault _ ha => (exec_completes hexec hfault).mem_read_eq hwf ha

end Sys2Proof.Machine
end

section
/-! The invariant of the machine: every host request keeps it (spec/10_state.md, spec/20_memory.md, spec/60_exceptions.md). -/

namespace Sys2Proof.Machine

/-- A fetch reads memory alone. -/
theorem State.fetch16_congr {s t : State} (hmem : t.mem = s.mem) (a : Nat) : t.fetch16 a = s.fetch16 a := by
  simp only [State.fetch16, hmem]

/-- The invariant speaks of nine fields, so a state that agrees on them has it too. -/
theorem State.Inv.of_eq {s t : State} (h : s.Inv) (hmem : t.mem = s.mem) (hpc : t.pc = s.pc) (hsp : t.sp = s.sp)
    (hstack : t.stack = s.stack) (hfault : t.fault = s.fault) (hloaded : t.loaded = s.loaded) (hmode : t.mode = s.mode)
    (hk : t.k = s.k) (hlastOp : t.lastOp = s.lastOp) : t.Inv where
  memWf := hmem ▸ h.memWf
  pcBound := hpc ▸ h.pcBound
  stackBound := by rw [hsp, hstack]; exact h.stackBound
  faultClear := by rw [hfault]; exact h.faultClear
  entry := by rw [hloaded, hpc]; exact h.entry
  waiting := by rw [hmode, hloaded, hk, hlastOp, State.fetch16_congr hmem, hpc]; exact h.waiting

theorem State.Inv.served {s : State} (h : s.Inv) : s.served.Inv :=
  h.of_eq rfl rfl rfl rfl rfl rfl rfl rfl rfl

theorem State.Inv.tick {s : State} (h : s.Inv) : s.tick.Inv :=
  h.of_eq s.tick_mem s.tick_pc s.tick_sp s.tick_stack s.tick_fault s.tick_loaded s.tick_mode s.tick_k s.tick_lastOp

/-- Taking a fault records one and leaves every other field the invariant speaks of (R88, R141). -/
theorem State.Inv.takeFault {s : State} (h : s.Inv) (f : Fault) (w : Word) : (s.takeFault f w).Inv where
  memWf := h.memWf
  pcBound := h.pcBound
  stackBound := h.stackBound
  faultClear := fun hnone => absurd hnone f.kind_ne_none
  entry := h.entry
  waiting := h.waiting

/-- The state a reset leaves has the invariant, whatever the state before (R154). -/
theorem State.construct_inv (s : State) : s.construct.Inv where
  memWf := Memory.wf_empty s.mem.font
  pcBound := show (0x200 : Word).toNat ≤ 0x10FE by decide
  stackBound := fun j hj => absurd hj (Nat.not_lt_zero j.val)
  faultClear := fun _ => rfl
  entry := fun _ => rfl
  waiting := fun hmode => nomatch hmode

theorem State.Inv.load {s t : State} {rom : List Byte} (h : s.Inv) (hload : s.load rom = .next t) : t.Inv := by
  obtain ⟨-, hunloaded, ⟨-, rfl⟩ | ⟨hlen, rfl⟩⟩ := load_cases hload
  · exact h.takeFault _ _
  · exact {
      memWf := Memory.wf_writeAll h.memWf (show 0x200 + rom.length ≤ 4096 by omega)
      pcBound := h.pcBound
      stackBound := h.stackBound
      faultClear := h.faultClear
      entry := fun hfalse => nomatch hfalse
      waiting := fun hmode => absurd hunloaded (by simp [(h.waiting hmode).1]) }

/-! ### The completed step -/

/-- PC after a fetch inside memory, and after a skip from there (R25). -/
theorem add_toNat_of_fetchable {pc : Word} (hpc : pc.toNat ≤ 0xFFE) :
    (pc + 2).toNat = pc.toNat + 2 ∧ (pc + 4).toNat = pc.toNat + 4 := by
  constructor <;> bv_omega

/-- The largest PC an instruction leaves is Bnnn's, 0xFFF + 0xFF (R25). -/
theorem pcAfter_le {s : State} (h : s.Inv) (hpc : s.pc.toNat ≤ 0xFFE) (i : Instr) : (i.pcAfter s).toNat ≤ 0x10FE := by
  obtain ⟨h2, h4⟩ := add_toNat_of_fetchable hpc
  have haddr (nnn : Addr) : (nnn.setWidth 16).toNat ≤ 0xFFF := by
    have := nnn.isLt
    rw [BitVec.toNat_setWidth]
    omega
  cases i with
  | ret =>
    rw [Instr.pcAfter]
    split
    · omega
    · exact (h.stackBound ⟨s.sp.val - 1, by omega⟩ (by simp only; omega)).trans (by decide)
  | jp nnn | call nnn => exact (haddr nnn).trans (by decide)
  | jpV0 nnn =>
    have hv0 := (s.reg 0).isLt
    have hnnn := nnn.isLt
    rw [Instr.pcAfter, ← jumpV0Target_eq, jumpV0Target_toNat]
    omega
  | seImm | sneImm | seReg | sneReg | skp | sknp | ldVxK => rw [Instr.pcAfter]; split <;> omega
  | _ => rw [Instr.pcAfter]; omega

/-- The saved return addresses after a completed step: 2nnn adds the PC after its fetch, 00EE takes one away (R27). -/
theorem Completes.stackBound {i : Instr} {s t : State} (hstep : Completes i s t) (h : s.Inv) (hpc : s.pc.toNat ≤ 0xFFE) :
    ∀ j : Fin 16, j.val < t.sp.val → t.stack[j.val].toNat ≤ 0x1000 := by
  intro j hj
  cases hstep with
  | ret => exact h.stackBound j (by simp at hj; omega)
  | call _ nnn hroom =>
    simp at hj
    simp only [State.finished_stack, State.jump_stack, Vector.getElem_set]
    split
    · rw [(add_toNat_of_fetchable hpc).1]; omega
    · exact h.stackBound j (by omega)
  | _ => exact h.stackBound j hj

/-- A step that waits leaves the machine before the word it has fetched, with no key latched (R87, R130). -/
theorem Completes.waiting {w : Word} {s t : State} (hstep : Completes (decode w) s t) (hfetch : s.fetch16 s.pc.toNat = .ok w)
    (hloaded : s.loaded = true) (hmode : t.mode = .awaitingKey) :
    t.loaded = true ∧ t.k = 0 ∧ (∃ x, decode t.lastOp = .ldVxK x) ∧ t.fetch16 t.pc.toNat = .ok t.lastOp := by
  obtain ⟨⟨x, hx⟩, hnone⟩ := hstep.mode_eq_awaitingKey_iff.mp hmode
  have hlastOp : t.lastOp = w := hstep.lastOp_eq.trans (encode_decode w)
  have hpc : t.pc = s.pc := by rw [hstep.pc_eq, hx, Instr.pcAfter, if_pos hnone]
  obtain ⟨bytes, hlen, -, hmem⟩ := hstep.mem_eq
  have hbytes : bytes = [] := by rwa [hx, Instr.stores, List.length_eq_zero_iff] at hlen
  rw [hbytes, Memory.writeAll] at hmem
  refine ⟨hstep.loaded_eq.trans hloaded, hstep.k_eq.trans hnone, ⟨x, by rw [hlastOp, hx]⟩, ?_⟩
  rw [State.fetch16_congr hmem, hpc, hlastOp, hfetch]

theorem Completes.inv {w : Word} {s t : State} (hstep : Completes (decode w) s t) (h : s.Inv)
    (hfetch : s.fetch16 s.pc.toNat = .ok w) (hloaded : s.loaded = true) : t.Inv := by
  have hpc : s.pc.toNat ≤ 0xFFE := (State.fetch16_eq_ok hfetch).1
  exact {
    memWf := hstep.mem_wf h.memWf
    pcBound := hstep.pc_eq ▸ pcAfter_le h hpc _
    stackBound := hstep.stackBound h hpc
    faultClear := hstep.fault_eq ▸ h.faultClear
    entry := fun hfalse => absurd (hstep.loaded_eq.trans hloaded) (by simp [hfalse])
    waiting := hstep.waiting hfetch hloaded }

theorem State.Inv.coreStep {s t : State} (h : s.Inv) (hstep : coreStep s = .next t) : t.Inv := by
  obtain ⟨-, rfl⟩ | ⟨-, -, f, -, rfl⟩ | ⟨-, hloaded, w, hfetch, hexec⟩ := coreStep_cases hstep
  · exact h.of_eq rfl rfl rfl rfl rfl rfl rfl rfl rfl
  · exact h.takeFault f 0
  · obtain hcompletes | ⟨f, -, rfl⟩ := exec_cases hexec
    · exact hcompletes.inv h hfetch hloaded
    · exact h.takeFault f _

theorem State.Inv.perform {s t : State} {r : Request} (h : s.Inv) (hr : perform r s = .next t) : t.Inv := by
  cases r with
  | reset => cases hr; exact s.construct_inv
  | load rom => exact h.load hr
  | step keys =>
    have hkeys : State.Inv { s with keysIn := keys } := h.of_eq rfl rfl rfl rfl rfl rfl rfl rfl rfl
    exact hkeys.coreStep hr
  | tick => cases hr; exact h.tick

/-- Settles O59: taking a request changes none of the fields the invariant speaks of, and performing one keeps it. -/
theorem everyStepKeepsTheInvariant : Obligations.EveryStepKeepsTheInvariant :=
  fun _ _ h hstep => h.served.perform hstep

/-- Settles O60: the state after reset is the one a reset leaves it in. -/
theorem resetHasTheInvariant : Obligations.ResetHasTheInvariant :=
  State.reset.construct_inv

end Sys2Proof.Machine
end

section
/-! The family of spec/20_memory.md: fetch and data access (R54, R56, R57). -/

namespace Sys2Proof.Machine

theorem wordOfBytes_toNat (hi lo : Byte) : (wordOfBytes hi lo).toNat = hi.toNat * 256 + lo.toNat := by
  have := hi.isLt
  have := lo.isLt
  rw [wordOfBytes, BitVec.toNat_ofNat]
  omega

/-- Settles O16, from what a fetch answers on each side of 0xFFE. -/
theorem fetchIsBigEndianAndBounded : Obligations.FetchIsBigEndianAndBounded := by
  intro s a
  refine ⟨fun ha => ⟨_, s.fetch16_ok ha, wordOfBytes_toNat _ _⟩, ?last, ?above⟩
  case last =>
    rintro rfl
    exact s.fetch16_error (by decide)
  case above =>
    intro ha
    rw [s.fetch16_error (by omega), Nat.max_eq_left ha]

theorem State.memWrite_ok (s : State) {a : Nat} (b : Byte) (h : a ≤ 0xFFF) :
    s.memWrite a b = .ok { s with mem := s.mem.write a b } :=
  if_neg (Nat.not_lt.mpr h)

theorem State.memWrite_error (s : State) {a : Nat} (b : Byte) (h : 0xFFF < a) :
    s.memWrite a b = .error (.memoryOutOfBounds .write a) :=
  if_pos h

/-- Settles O17, from the two sides of the bound and the laws of a write. -/
theorem dataAccessIsBoundedAndReadsBack : Obligations.DataAccessIsBoundedAndReadsBack := by
  intro s a b
  refine ⟨fun ha => ⟨s.memRead_error ha, s.memWrite_error b ha⟩, s.memRead_ok, fun ha hwf => ?_⟩
  exact ⟨s.mem.write a b, s.memWrite_ok b ha, Memory.wf_write hwf (Nat.lt_succ_of_le ha) b, fun c => Memory.read_write hwf a c b⟩

end Sys2Proof.Machine
end

section
/-! The family of spec/60_exceptions.md: which instruction raises which fault, and what a faulting step leaves (R88, R138, R140, R141). -/

namespace Sys2Proof.Machine

/-- A raised fault is taken: the converse of the faulting case of `exec_cases`. -/
theorem exec_of_raises {i : Instr} {s : State} {f : Fault} (h : Raises i s f) :
    exec i s = .next (s.faultedWith ⟨f.kind, s.pc, encode i, f.access, f.info⟩) := by
  cases h with
  | ret _ hsp => exact exec_ret_fault s hsp
  | call _ nnn hsp => exact exec_call_fault s nnn hsp
  | skp _ x hx => exact exec_skp_fault s x hx
  | sknp _ x hx => exact exec_sknp_fault s x hx
  | ldB _ x hi => exact exec_ldB_fault s x hi
  | ldStore _ x hi => exact exec_ldStore_fault s x hi
  | ldLoad _ x hi => exact exec_ldLoad_fault s x hi
  | drw _ x y n hn hi => exact exec_drw_fault s x y n hn hi

/-- A step from a state with no fault ends in a kind of fault exactly when its instruction raises one of that kind. -/
theorem exec_fault_kind_iff {i : Instr} {s t : State} {k : FaultKind} (hs : s.fault.kind = .none) (hexec : exec i s = .next t)
    (hk : k ≠ .none) : t.fault.kind = k ↔ ∃ f, Raises i s f ∧ f.kind = k := by
  constructor
  · intro ht
    obtain hstep | ⟨f, hraises, rfl⟩ := exec_cases hexec
    · exact absurd (ht.symm.trans (hstep.fault_eq ▸ hs)) hk
    · exact ⟨f, hraises, ht⟩
  · rintro ⟨f, hraises, hkind⟩
    rw [exec_of_raises hraises] at hexec
    cases hexec
    exact hkind

theorem raises_stackOverflow_iff {i : Instr} {s : State} :
    (∃ f, Raises i s f ∧ f.kind = .stackOverflow) ↔ (∃ nnn, i = .call nnn) ∧ s.sp.val = 16 := by
  constructor
  · rintro ⟨f, hraises, hkind⟩
    cases hraises with
    | call _ nnn hsp => exact ⟨⟨nnn, rfl⟩, hsp⟩
    | _ => cases hkind
  · rintro ⟨⟨nnn, rfl⟩, hsp⟩
    exact ⟨_, .call s nnn hsp, rfl⟩

theorem raises_stackUnderflow_iff {i : Instr} {s : State} :
    (∃ f, Raises i s f ∧ f.kind = .stackUnderflow) ↔ i = .ret ∧ s.sp.val = 0 := by
  constructor
  · rintro ⟨f, hraises, hkind⟩
    cases hraises with
    | ret _ hsp => exact ⟨rfl, hsp⟩
    | _ => cases hkind
  · rintro ⟨rfl, hsp⟩
    exact ⟨_, .ret s hsp, rfl⟩

theorem raises_keyIndexOutOfRange_iff {i : Instr} {s : State} :
    (∃ f, Raises i s f ∧ f.kind = .keyIndexOutOfRange) ↔ ∃ x, (i = .skp x ∨ i = .sknp x) ∧ 16 ≤ (s.reg x).toNat := by
  constructor
  · rintro ⟨f, hraises, hkind⟩
    cases hraises with
    | skp _ x hx => exact ⟨x, .inl rfl, hx⟩
    | sknp _ x hx => exact ⟨x, .inr rfl, hx⟩
    | _ => cases hkind
  · rintro ⟨x, rfl | rfl, hx⟩
    · exact ⟨_, .skp s x hx, rfl⟩
    · exact ⟨_, .sknp s x hx, rfl⟩

theorem raises_memoryOutOfBounds_iff {i : Instr} {s : State} : (∃ f, Raises i s f ∧ f.kind = .memoryOutOfBounds) ↔
    (∃ x, i = .ldB x ∧ 0xFFF < s.i.toNat + 2) ∨ (∃ x, i = .ldStore x ∧ 0xFFF < s.i.toNat + x.val) ∨
    (∃ x, i = .ldLoad x ∧ 0xFFF < s.i.toNat + x.val) ∨
    (∃ x y n, i = .drw x y n ∧ 0 < n.val ∧ 0xFFF < s.i.toNat + n.val - 1) := by
  constructor
  · rintro ⟨f, hraises, hkind⟩
    cases hraises with
    | ldB _ x hi => exact .inl ⟨x, rfl, hi⟩
    | ldStore _ x hi => exact .inr (.inl ⟨x, rfl, hi⟩)
    | ldLoad _ x hi => exact .inr (.inr (.inl ⟨x, rfl, hi⟩))
    | drw _ x y n hn hi => exact .inr (.inr (.inr ⟨x, y, n, rfl, hn, by omega⟩))
    | _ => cases hkind
  · rintro (⟨x, rfl, hi⟩ | ⟨x, rfl, hi⟩ | ⟨x, rfl, hi⟩ | ⟨x, y, n, rfl, hn, hi⟩)
    · exact ⟨_, .ldB s x hi, rfl⟩
    · exact ⟨_, .ldStore s x hi, rfl⟩
    · exact ⟨_, .ldLoad s x hi, rfl⟩
    · exact ⟨_, .drw s x y n hn (by omega), rfl⟩

/-- Settles O20: a step's fault is the one its instruction raises, and the instructions that raise a kind are listed. -/
theorem eachFaultKindHasItsInstructionsAndCondition : Obligations.EachFaultKindHasItsInstructionsAndCondition := by
  intro i s t hs hexec
  refine ⟨?stackOverflow, ?stackUnderflow, ?keyIndex, ?memory, ?romTooLarge⟩
  case stackOverflow => exact (exec_fault_kind_iff hs hexec (by decide)).trans raises_stackOverflow_iff
  case stackUnderflow => exact (exec_fault_kind_iff hs hexec (by decide)).trans raises_stackUnderflow_iff
  case keyIndex => exact (exec_fault_kind_iff hs hexec (by decide)).trans raises_keyIndexOutOfRange_iff
  case memory => exact (exec_fault_kind_iff hs hexec (by decide)).trans raises_memoryOutOfBounds_iff
  case romTooLarge =>
    intro hrom
    obtain ⟨f, hraises, hkind⟩ := (exec_fault_kind_iff hs hexec (by decide)).mp hrom
    cases hraises with | _ => cases hkind

/-- Settles O21: the least address from I on that is outside memory is the larger of I and 0x1000, which the raised fault carries. -/
theorem memoryFaultsReportTheLowestAddress : Obligations.MemoryFaultsReportTheLowestAddress := by
  intro s x y n a hfrom houtside hleast
  obtain rfl : a = max s.i.toNat 0x1000 :=
    le_antisymm (hleast _ (le_max_left _ _) (lt_max_of_lt_right (by decide))) (max_le hfrom houtside)
  exact ⟨fun hi => exec_of_raises (.ldB s x hi), fun hi => exec_of_raises (.ldStore s x hi),
    fun hi => exec_of_raises (.ldLoad s x hi), fun hn hi => exec_of_raises (.drw s x y n hn (by omega))⟩

/-- Settles O22: the four instructions raise these faults. -/
theorem stackAndKeyFaultsAreRecorded : Obligations.StackAndKeyFaultsAreRecorded := by
  intro s nnn x
  exact ⟨fun hsp => exec_of_raises (.call s nnn hsp), fun hsp => exec_of_raises (.ret s hsp),
    fun hx => exec_of_raises (.skp s x hx), fun hx => exec_of_raises (.sknp s x hx)⟩

/-- Settles O18: a step that faults has taken the fault of its fetch, with no word, or the one its instruction raises. -/
theorem faultingStepChangesOnlyTheFaultRecord : Obligations.FaultingStepChangesOnlyTheFaultRecord := by
  intro s t hs hstep ht
  obtain ⟨hfaulted, -⟩ | ⟨-, -, f, hfetch, rfl⟩ | ⟨-, -, w, hfetch, hexec⟩ := coreStep_cases hstep
  · exact absurd hs hfaulted
  · exact ⟨rfl, rfl, fun w hw => by simp [hfetch] at hw, fun _ _ => rfl⟩
  · obtain hcompletes | ⟨f, -, rfl⟩ := exec_cases hexec
    · exact absurd (hcompletes.fault_eq ▸ hs) ht
    · refine ⟨rfl, rfl, fun w' hw' => ?_, fun f hf => by simp [hfetch] at hf⟩
      obtain rfl : w = w' := by simpa [hfetch] using hw'
      exact encode_decode w

/-- Settles O19: the fetch raises the fault, at the larger of PC and 0x1000. -/
theorem fetchOutsideMemoryFaults : Obligations.FetchOutsideMemoryFaults := by
  intro s hs hloaded hpc
  have haddr : (if s.pc.toNat = 0xFFF then 0x1000 else s.pc.toNat) = max s.pc.toNat 0x1000 := by
    split <;> omega
  rw [haddr]
  exact coreStep_fetch_fault s hs hloaded (s.fetch16_error hpc)

/-- Settles O58: the word at PC decodes to the jump to PC itself, which changes no field of the statement. -/
theorem parkedMachineStaysParked : Obligations.ParkedMachineStaysParked := by
  intro s hsafe hloaded ⟨hpc, hfetch⟩
  have hjump : decode (encode (.jp (s.pc.setWidth 12))) = .jp (s.pc.setWidth 12) := decodeReadsBackEveryEncodedInstruction _ rfl
  have htarget : addrWord (s.pc.setWidth 12) = s.pc := by
    apply BitVec.eq_of_toNat_eq
    rw [addrWord_toNat, BitVec.toNat_setWidth]
    omega
  have hstep := coreStep_fetch s hsafe hloaded hfetch
  rw [hjump, exec_jp, State.finished_jump_fetched s rfl, htarget] at hstep
  exact ⟨_, hstep, hsafe, ⟨hpc, hfetch⟩, rfl, rfl, rfl, rfl, rfl, rfl, rfl⟩

end Sys2Proof.Machine
end

section
/-! The host's operations: reset (spec/70_reset_and_hazards.md), load (spec/20_memory.md), tick (spec/45_keys_timers.md), the requests and
the step (spec/00_scope.md, spec/40_cycle.md). -/

namespace Sys2Proof.Machine

/-! ### Reset (R153, R154) -/

/-- What a reset leaves: every field the constant of R154, and the memory that lists no byte (R50, R153). -/
theorem State.construct_atReset (s : State) : s.construct.AtReset s.mem.font where
  v := s.reg_construct
  pc := rfl
  i := rfl
  sp := rfl
  stack := fun j => Vector.getElem_replicate j.isLt
  dt := rfl
  st := rfl
  disp := fun _ _ => BitVec.getLsbD_zero
  k := fun _ _ => BitVec.getLsbD_zero
  mode := rfl
  lastOp := rfl
  fault := rfl
  loaded := rfl
  glyphs := resetByte_font s.mem.font
  zeros := fun _ _ hout => resetByte_zero s.mem.font hout

/-- Settles O1: the state after construction is the one a reset of it leaves. -/
theorem resetGivesEveryResetValue : Obligations.ResetGivesEveryResetValue :=
  State.reset.construct_atReset

/-- Settles O2: the request is a reset of the machine, which keeps its own font. -/
theorem resetRequestRestoresEveryResetValue : Obligations.ResetRequestRestoresEveryResetValue :=
  fun s => ⟨s.construct, rfl, s.construct_atReset, rfl⟩

/-! ### Load (R52) -/

section
variable {s : State} {rom : List Byte}

theorem State.load_copies (hfault : s.fault.kind = .none) (hloaded : s.loaded = false) (hlen : rom.length ≤ 3584) :
    s.load rom = .next { s with mem := s.mem.writeAll 0x200 rom, loaded := true, reply := .loadOk } := by
  rw [State.load, s.faulted_eq_false.mpr hfault, hloaded, if_neg (by decide), if_neg (Nat.not_lt.mpr hlen)]

theorem State.load_too_large (hfault : s.fault.kind = .none) (hloaded : s.loaded = false) (hlen : 3584 < rom.length) :
    s.load rom = .next (s.takeFault (.romTooLarge rom.length) 0) := by
  rw [State.load, s.faulted_eq_false.mpr hfault, hloaded, if_neg (by decide), if_pos hlen]

theorem State.load_out_of_turn (h : s.fault.kind ≠ .none ∨ s.loaded = true) : s.load rom = .refused .loadOutOfTurn := by
  rw [← State.faulted_eq_true, ← Bool.or_eq_true] at h
  rw [State.load, if_pos h]

end

/-- Settles O11: the three cases of a load, and what a row of bytes stored from 0x200 on reads as. -/
theorem loadCopiesTheRomOrFaults : Obligations.LoadCopiesTheRomOrFaults := by
  intro s rom
  refine ⟨fun hfault hloaded hwf hlen => ?copies, State.load_too_large, State.load_out_of_turn⟩
  have hin : 0x200 + rom.length ≤ 0x1000 := by omega
  exact ⟨_, State.load_copies hfault hloaded hlen, s.mem.font_writeAll 0x200 rom,
    fun j hj => Memory.read_writeAll_add hwf hin hj, fun a ha => Memory.read_writeAll_outside hwf hin ha⟩

/-! ### Ticks (R134, R135, R137) -/

theorem countDown_toNat (b : Byte) : (countDown b).toNat = b.toNat - 1 := by
  have := b.isLt
  rw [countDown]
  split
  · rw [BitVec.toNat_ofNat, Nat.mod_eq_of_lt (by omega)]
  · omega

theorem State.tick_of_fault {s : State} (h : s.fault.kind ≠ .none) : s.tick = { s with reply := .nothing } := by
  rw [State.tick, if_pos (s.faulted_eq_true.mpr h)]

theorem State.tick_of_no_fault {s : State} (h : s.fault.kind = .none) :
    s.tick = { s with dt := countDown s.dt, st := countDown s.st, reply := .nothing } := by
  rw [State.tick, s.faulted_eq_false.mpr h, if_neg (by decide)]

/-- Settles O12, by whether a fault is recorded. -/
theorem tickDecrementsEachTimerAboveZero : Obligations.TickDecrementsEachTimerAboveZero := by
  intro s
  by_cases h : s.fault.kind = .none
  · exact ⟨countDown s.dt, countDown s.st, congrArg _ (State.tick_of_no_fault h),
      fun _ => ⟨countDown_toNat s.dt, countDown_toNat s.st⟩, fun hne => absurd h hne⟩
  · exact ⟨s.dt, s.st, congrArg _ (State.tick_of_fault h), fun hnone => absurd hnone h, fun _ => ⟨rfl, rfl⟩⟩

/-- Settles O13, by induction over the ticks. -/
theorem ticksCountDownToTheFloor : Obligations.TicksCountDownToTheFloor := by
  intro n
  induction n with
  | zero => exact fun s _ => ⟨rfl, rfl⟩
  | succ n ih =>
    intro s h
    obtain ⟨hdt, hst⟩ := ih s.tick (by rw [s.tick_fault, h])
    rw [Function.iterate_succ_apply, hdt, hst, State.tick_of_no_fault h, countDown_toNat, countDown_toNat]
    omega

/-- Settles O14: the tone is the level ST = 1 (`State.tone_eq_true_iff`), and ST after n ticks is known. -/
theorem toneIsOnForOneTickInterval : Obligations.ToneIsOnForOneTickInterval := by
  intro n s h
  refine ⟨s.tone_eq_true_iff, ?_⟩
  rw [State.tone_eq_true_iff, (ticksCountDownToTheFloor n s h).2]
  omega

/-! ### Requests (R6, R7, R80, R89) -/

/-- Settles O15, from what each operation does once a fault is recorded. -/
theorem faultIsStickyUntilReset : Obligations.FaultIsStickyUntilReset := by
  intro s h
  exact ⟨fun keys => coreStep_faulted { s with keysIn := keys } h, congrArg _ (State.tick_of_fault h),
    fun _ => State.load_out_of_turn (.inl h), s.construct, rfl, rfl⟩

/-- An operation leaves the pending requests and the schedule (log 1, log 18). -/
theorem perform_keeps_requests {r : Request} {s t : State} (h : perform r s = .next t) :
    t.inbox = s.inbox ∧ t.schedule = s.schedule := by
  cases r with
  | reset => cases h; exact ⟨rfl, rfl⟩
  | load rom => obtain ⟨-, -, ⟨-, rfl⟩ | ⟨-, rfl⟩⟩ := load_cases h <;> exact ⟨rfl, rfl⟩
  | tick => cases h; exact ⟨s.tick_inbox, s.tick_schedule⟩
  | step keys =>
    obtain ⟨-, rfl⟩ | ⟨-, -, f, -, rfl⟩ | ⟨-, -, w, -, hexec⟩ := coreStep_cases h
    · exact ⟨rfl, rfl⟩
    · exact ⟨rfl, rfl⟩
    · obtain hstep | ⟨f, -, rfl⟩ := exec_cases hexec
      · exact ⟨hstep.inbox_eq, hstep.schedule_eq⟩
      · exact ⟨rfl, rfl⟩

/-- The step, spelled out by the request, the pending requests and the schedule it leaves (log 1). -/
theorem step_eq_perform {s : State} {r : Request} {rest : List Request} {schedule : Schedule} (hr : s.nextRequest = r)
    (hrest : s.inboxAfter = rest) (hschedule : s.scheduleAfter = schedule) :
    step s = perform r { s with inbox := rest, schedule := schedule } := by
  rw [← hr, ← hrest, ← hschedule]
  rfl

/-- With no request pending the step serves the schedule and moves it on (log 18). -/
theorem step_of_no_pending {s : State} (h : s.inbox = []) : step s =
    perform (s.schedule.next s.keysIn) { s with inbox := s.schedule.pending, schedule := s.schedule.after } :=
  step_eq_perform (s.nextRequest_nil h) (s.inboxAfter_nil h) (s.scheduleAfter_nil h)

/-- Settles O9: the next request is the head of `inbox` or, where that is empty, of the schedule. -/
theorem stepServesTheHostsRequests : Obligations.StepServesTheHostsRequests := by
  refine ⟨?pending, ?steps, ?round, ?free, fun _ _ _ => perform_keeps_requests⟩
  case pending =>
    intro s r rest h
    exact step_eq_perform (s.nextRequest_cons h) (s.inboxAfter_cons h) (s.scheduleAfter_cons h)
  case steps =>
    intro s h hschedule
    have hsame : { s with inbox := [], schedule := .repeating [] } = s := by rw [← hschedule, ← h]
    rw [step_of_no_pending h, hschedule]
    exact congrArg (perform (.step s.keysIn)) hsame
  case round =>
    intro s r rest h hschedule
    rw [step_of_no_pending h, hschedule]
    rfl
  case free =>
    intro s n h hschedule
    have hsame : { s with inbox := [], schedule := .free (n + 1) } = { s with schedule := .free (n + 1) } := by rw [← h]
    rw [step_of_no_pending h, hschedule]
    exact congrArg (perform (Config.hostRequest n)) hsame

/-- Settles O8: the step performs its request, and the fetch gives the word of the two bytes at PC. -/
theorem stepRunsTheDecodedInstruction : Obligations.StepRunsTheDecodedInstruction := by
  intro s keys w hnext hfault hloaded hpc hw
  have hword : w = wordOfBytes (s.mem.read s.pc.toNat) (s.mem.read (s.pc.toNat + 1)) :=
    BitVec.eq_of_toNat_eq (by rw [hw, wordOfBytes_toNat])
  have hfetch := ({ s.served with keysIn := keys } : State).fetch16_ok hpc
  rw [step, hnext, hword]
  exact coreStep_fetch _ hfault hloaded hfetch

/-! ### Refusals (R52, R80, D19) -/

theorem execute_next (w : Word) (dirty : Bool) (rule : State → Except Fault State) (s : State) :
    ∃ t, execute w dirty rule s = .next t := by
  obtain ⟨t, -, h⟩ | ⟨f, -, h⟩ := execute_cases w dirty rule s
  · exact ⟨_, h⟩
  · exact ⟨_, h⟩

/-- Every instruction is a rule inside the step of R81, so it answers a next state (log 7). -/
theorem exec_next (i : Instr) (s : State) : ∃ t, exec i s = .next t := by
  cases i with | _ => rw [exec]; exact execute_next _ _ _ s

/-- A step operation is refused before load, and else answers a next state (R80). -/
theorem coreStep_answers (s : State) : (s.fault.kind = .none ∧ s.loaded = false ∧ coreStep s = .refused .stepBeforeLoad) ∨
    (¬ (s.fault.kind = .none ∧ s.loaded = false) ∧ ∃ t, coreStep s = .next t) := by
  by_cases hfault : s.fault.kind = .none
  · cases hloaded : s.loaded with
    | false => exact .inl ⟨hfault, rfl, coreStep_before_load s hfault hloaded⟩
    | true =>
      refine .inr ⟨by simp, ?_⟩
      cases hfetch : s.fetch16 s.pc.toNat with
      | error f => exact ⟨_, coreStep_fetch_fault s hfault hloaded hfetch⟩
      | ok w =>
        obtain ⟨t, ht⟩ := exec_next (decode w) s
        exact ⟨t, (coreStep_fetch s hfault hloaded hfetch).trans ht⟩
  · exact .inr ⟨by simp [hfault], _, coreStep_faulted s hfault⟩

/-- A load is refused out of turn, and else answers a next state (R52). -/
theorem load_answers (s : State) (rom : List Byte) :
    ((s.fault.kind ≠ .none ∨ s.loaded = true) ∧ s.load rom = .refused .loadOutOfTurn) ∨
    (¬ (s.fault.kind ≠ .none ∨ s.loaded = true) ∧ ∃ t, s.load rom = .next t) := by
  by_cases hturn : s.fault.kind ≠ .none ∨ s.loaded = true
  · exact .inl ⟨hturn, State.load_out_of_turn hturn⟩
  · obtain ⟨hfault, hloaded⟩ : s.fault.kind = .none ∧ s.loaded = false := by simpa using hturn
    refine .inr ⟨hturn, ?_⟩
    obtain hlen | hlen := Nat.lt_or_ge 3584 rom.length
    · exact ⟨_, State.load_too_large hfault hloaded hlen⟩
    · exact ⟨_, State.load_copies hfault hloaded hlen⟩

theorem perform_ne_fault (r : Request) (s : State) (f : Fault) : perform r s ≠ .fault f := by
  cases r with
  | reset | tick => exact nofun
  | load rom => obtain ⟨-, h⟩ | ⟨-, t, h⟩ := load_answers s rom <;> simp [perform, h]
  | step keys => obtain ⟨-, -, h⟩ | ⟨-, t, h⟩ := coreStep_answers { s with keysIn := keys } <;> simp [perform, h]

theorem coreStep_eq_refused_iff (s : State) (e : Refusal) :
    coreStep s = .refused e ↔ s.fault.kind = .none ∧ s.loaded = false ∧ e = .stepBeforeLoad := by
  obtain ⟨hfault, hloaded, h⟩ | ⟨hturn, t, h⟩ := coreStep_answers s
  · simp [h, hfault, hloaded, eq_comm]
  · simp only [h, reduceCtorEq, false_iff]
    exact fun ⟨hfault, hloaded, _⟩ => hturn ⟨hfault, hloaded⟩

theorem load_eq_refused_iff (s : State) (rom : List Byte) (e : Refusal) :
    s.load rom = .refused e ↔ (s.fault.kind ≠ .none ∨ s.loaded = true) ∧ e = .loadOutOfTurn := by
  obtain ⟨hturn, h⟩ | ⟨hturn, t, h⟩ := load_answers s rom
  · simp only [h, hturn, true_and, Host.Outcome.refused.injEq]
    exact eq_comm
  · simp only [h, reduceCtorEq, false_iff]
    exact fun ⟨hout, _⟩ => hturn hout

/-- A request is refused where it breaches the host's duty (R52, R80, D19). -/
theorem perform_eq_refused_iff (r : Request) (s : State) (e : Refusal) : perform r s = .refused e ↔
    ((∃ keys, r = .step keys) ∧ s.fault.kind = .none ∧ s.loaded = false ∧ e = .stepBeforeLoad) ∨
    ((∃ rom, r = .load rom) ∧ (s.fault.kind ≠ .none ∨ s.loaded = true) ∧ e = .loadOutOfTurn) := by
  cases r with
  | reset | tick => simp [perform]
  | load rom => simpa [perform] using load_eq_refused_iff s rom e
  | step keys => simpa [perform] using coreStep_eq_refused_iff { s with keysIn := keys } e

/-- Settles O10: what a request is answered, for the next request on the state in which it is taken. -/
theorem machineStopsOnlyOnAHostBreach : Obligations.MachineStopsOnlyOnAHostBreach :=
  ⟨exec_next, fun s => perform_ne_fault s.nextRequest s.served, fun s => perform_eq_refused_iff s.nextRequest s.served⟩

end Sys2Proof.Machine
end

section
/-! The family of spec/42_alu.md: the subtractions, the shifts and the random byte (R109 to R113). -/

namespace Sys2Proof.Machine

/-- Settles O37: the difference goes to Vx and the strict no-borrow, last, to VF (R22, R109, R111). -/
theorem subtractWithStrictNoBorrow : Obligations.SubtractWithStrictNoBorrow := by
  intro s x y
  constructor
  · obtain ⟨v, hstep, hflag, hx, hframe⟩ := exec_spec_of_setRegFlag rfl (exec_sub s x y)
    exact ⟨v, hstep, by rw [hflag, flagByte_noBorrow_toNat], fun hne => by rw [hx hne, diffByte_toNat], hframe⟩
  · obtain ⟨v, hstep, hflag, hx, hframe⟩ := exec_spec_of_setRegFlag rfl (exec_subn s x y)
    exact ⟨v, hstep, by rw [hflag, flagByte_noBorrow_toNat], fun hne => by rw [hx hne, diffByte_toNat], hframe⟩

/-- Settles O38: the shifted Vx goes to Vx and the bit shifted out, last, to VF (R22, R110, R112). -/
theorem shiftsReadVxOnly : Obligations.ShiftsReadVxOnly := by
  intro s x y
  constructor
  · obtain ⟨v, hstep, hflag, hx, hframe⟩ := exec_spec_of_setRegFlag rfl (exec_shr s x y)
    exact ⟨v, hstep, by rw [hflag, flagByte_lowBit_toNat], fun hne => by rw [hx hne, shiftRightByte_toNat], hframe⟩
  · obtain ⟨v, hstep, hflag, hx, hframe⟩ := exec_spec_of_setRegFlag rfl (exec_shl s x y)
    exact ⟨v, hstep, by rw [hflag, flagByte_highBit_toNat], fun hne => by rw [hx hne, shiftLeftByte_toNat], hframe⟩

/-- Settles O39: one draw and one register, and a mask bit that is 0 clears the bit of whatever was drawn (R113). -/
theorem randomByteIsMasked : Obligations.RandomByteIsMasked := by
  intro s x nn
  have hreg (z : Reg) := s.reg_setReg x z (Config.randomByte s.draws &&& nn)
  have hx : (s.setReg x (Config.randomByte s.draws &&& nn)).v[x.val] = Config.randomByte s.draws &&& nn :=
    (hreg x).trans (if_pos rfl)
  refine ⟨_, exec_rnd s x nn, hx, fun k _ hbit => ?masked, fun z hz => (hreg z).trans (if_neg hz.symm)⟩
  case masked => exact (congrArg (·.getLsbD k) hx).trans (by rw [BitVec.getLsbD_and, hbit, Bool.and_false])

end Sys2Proof.Machine
end

section
/-! The family of spec/41_control_flow.md: call and return (R93, R95). -/

namespace Sys2Proof.Machine

/-- Settles O41: the return address is put in the slot SP names, and PC takes nnn zero-extended (R94). -/
theorem callPushesTheReturnAddress : Obligations.CallPushesTheReturnAddress := by
  intro s nnn hroom
  refine ⟨addrWord nnn, s.stack.set s.sp.val (s.pc + 2), ⟨s.sp.val + 1, Nat.succ_lt_succ hroom⟩, exec_call_ok s nnn hroom,
    addrWord_toNat nnn, rfl, fun j => ?_⟩
  rw [Vector.getElem_set]
  exact if_congr eq_comm rfl rfl

/-- Settles O42: the newest slot is the one below SP. -/
theorem returnPopsTheNewestAddress : Obligations.ReturnPopsTheNewestAddress := by
  intro s j hsp
  have htop : s.sp.val - 1 = j.val := by omega
  refine ⟨⟨s.sp.val - 1, by omega⟩, ?_, htop⟩
  have hexec := exec_ret_ok s (by omega)
  simp only [htop] at hexec ⊢
  exact hexec

/-- Settles O43: the call has left a stack whose newest entry is the address after it, and the return takes that one. -/
theorem returnAfterCallResumesAfterIt : Obligations.ReturnAfterCallResumesAfterIt := by
  intro s t nnn keys hroom hcall
  obtain ⟨p, stack, n, hexec, -, hn, hstack⟩ := callPushesTheReturnAddress s nnn hroom
  cases hcall.symm.trans hexec
  obtain ⟨m, hret, hm⟩ := returnPopsTheNewestAddress
    { s.stepped (.call nnn) with pc := p, stack := stack, sp := n, keysIn := keys } ⟨s.sp.val, hroom⟩ hn
  refine ⟨_, hret, rfl, ?pc, Fin.ext hm, fun j hj => ?slot⟩
  case pc => exact (hstack ⟨s.sp.val, hroom⟩).trans (if_pos rfl)
  case slot => exact (hstack j).trans (if_neg (by omega))

end Sys2Proof.Machine
end

section
/-! The family of spec/45_keys_timers.md: the key skips and the timer instructions (R127 to R133). -/

namespace Sys2Proof.Machine

/-- Settles O45: a skip on the snapshot's key, or on its negation (R127, R129). -/
theorem keySkips : Obligations.KeySkips := by
  intro s x hx
  constructor
  · rw [exec_skp_ok s x hx, State.finished_skipIf_fetched s (i := .skp x) rfl]
  · rw [exec_sknp_ok s x hx, State.finished_skipIf_fetched s (i := .sknp x) rfl]
    cases s.keysIn.getLsbD (s.reg x).toNat <;> rfl

/-- Settles O57: Fx07 is a rule that writes Vx alone, and Fx18 samples the tone on the ST it has set (R86). -/
theorem timerInstructions : Obligations.TimerInstructions := by
  intro s x
  refine ⟨exec_spec_of_setReg rfl (exec_ldVxDT s x), exec_ldDTVx s x, ?sound⟩
  have htone (t : State) : t.tone = decide (t.st.toNat = 1) := Bool.eq_iff_iff.mpr (by simp [t.tone_eq_true_iff])
  rw [exec_ldSTVx, State.finished, htone]
  rfl

end Sys2Proof.Machine
end

section
/-! The family of spec/43_index_memory.md: the index register (R114 to R116) and the memory transfers (R117 to R119). -/

namespace Sys2Proof.Machine

theorem glyphAddr_toNat (b : Byte) : (glyphAddr b).toNat = 0x050 + 5 * b.toNat := by
  have := b.isLt
  rw [glyphAddr, BitVec.toNat_ofNat]
  simp only [Config.fontBase, Config.glyphBytes]
  omega

/-- Settles O47, from the three values as natural numbers. -/
theorem indexRegisterSettings : Obligations.IndexRegisterSettings := by
  intro s x nnn
  exact ⟨⟨_, exec_ldI s nnn, addrWord_toNat nnn⟩, ⟨_, exec_addI s x, BitVec.toNat_ofNat ..⟩,
    ⟨_, exec_ldF s x, glyphAddr_toNat _⟩⟩

/-- The digits of a byte are below 256, so 8 bits hold each (R117). -/
theorem decimalDigits_toNat (b : Byte) : (BitVec.ofNat 8 (b.toNat / 100)).toNat = b.toNat / 100 ∧
    (BitVec.ofNat 8 (b.toNat / 10 % 10)).toNat = b.toNat / 10 % 10 ∧ (BitVec.ofNat 8 (b.toNat % 10)).toNat = b.toNat % 10 := by
  have := b.isLt
  simp only [BitVec.toNat_ofNat]
  omega

/-- Settles O48: the row of the three digits stored at I. -/
theorem decimalDigitsAreStored : Obligations.DecimalDigitsAreStored := by
  intro s x hwf hi
  have hin : s.i.toNat + (decimalDigits (s.reg x)).length ≤ 0x1000 := by rw [length_decimalDigits]; omega
  have hread (k : Nat) (hk : k < 3) := congrArg BitVec.toNat (Memory.read_writeAll_add hwf hin hk)
  obtain ⟨hhundreds, htens, hones⟩ := decimalDigits_toNat (s.reg x)
  exact ⟨_, exec_ldB_ok s x hi, (hread 0 (by decide)).trans hhundreds, (hread 1 (by decide)).trans htens,
    (hread 2 (by decide)).trans hones, fun a ha => Memory.read_writeAll_outside hwf hin ha⟩

/-- Settles O49: the row of the registers V0 to Vx stored at I. -/
theorem registersAreStored : Obligations.RegistersAreStored := by
  intro s x hwf hi
  have hlen := s.length_regsTo x
  have hin : s.i.toNat + (s.regsTo x).length ≤ 0x1000 := by omega
  refine ⟨_, exec_ldStore_ok s x hi, fun y hy => ?stored, fun a ha => Memory.read_writeAll_outside hwf hin (hlen ▸ ha)⟩
  case stored => rw [Memory.read_writeAll_add hwf hin (show y.val < (s.regsTo x).length by omega), State.getElem_regsTo]

/-- Settles O50: V0 to Vx take the row of bytes from I on. -/
theorem registersAreLoaded : Obligations.RegistersAreLoaded := by
  intro s x hi
  have hlen : ((List.range (x.val + 1)).map fun k => s.mem.read (s.i.toNat + k)).length = x.val + 1 := by simp
  have hreg := State.reg_setRegs s (hlen.trans_le x.isLt)
  refine ⟨_, exec_ldLoad_ok s x hi, fun y hy => ?loaded, fun y hy => ?kept⟩
  case loaded => exact (hreg y).trans ((dif_pos (by omega)).trans (by simp))
  case kept => exact (hreg y).trans (dif_neg (by omega))

/-- What Fx55 has stored, as the bytes of the state it leaves. -/
theorem mem_read_of_ldStore {s t : State} {x : Reg} (hwf : s.mem.wf) (hi : s.i.toNat + x.val ≤ 0xFFF)
    (hexec : exec (.ldStore x) s = .next t) {y : Reg} (hy : y.val ≤ x.val) : t.mem.read (s.i.toNat + y.val) = s.reg y := by
  obtain ⟨m, hstep, hstored, -⟩ := registersAreStored s x hwf hi
  cases hexec.symm.trans hstep
  exact hstored y hy

/-- Settles O51: the bytes that are loaded are the ones that were stored. -/
theorem loadRestoresStoredRegisters : Obligations.LoadRestoresStoredRegisters := by
  intro s t u x hwf hi hexec hmem hindex
  obtain ⟨v, hload, hloaded, hkept⟩ := registersAreLoaded u x (hindex ▸ hi)
  refine ⟨_, hload, rfl, fun y => ?_⟩
  split
  case isTrue hy => exact (hloaded y hy).trans (by rw [hmem, hindex, mem_read_of_ldStore hwf hi hexec hy])
  case isFalse hy => exact hkept y (Nat.lt_of_not_le hy)

/-- Settles O52: the two bytes the fetch reads are the ones that were stored. -/
theorem storedWordIsFetched : Obligations.StoredWordIsFetched := by
  intro s t x y z hwf hi hzy hzx hexec
  have hnext : s.i.toNat + y.val + 1 = s.i.toNat + z.val := by omega
  refine ⟨_, t.fetch16_ok (by omega), ?_⟩
  rw [wordOfBytes_toNat, hnext, mem_read_of_ldStore hwf hi hexec (by omega), mem_read_of_ldStore hwf hi hexec hzx]

end Sys2Proof.Machine
end

section
/-! The family of spec/44_display.md: the clear and the draw (R121 to R126). -/

namespace Sys2Proof.Machine

/-- Settles O53: the buffer after the step is the zero one. -/
theorem clearScreen : Obligations.ClearScreen :=
  fun s => ⟨0, exec_cls s, fun _ _ => BitVec.getLsbD_zero⟩

/-- The sprite of a draw: the n bytes from I on (R124). -/
def State.spriteRows (s : State) (n : Fin 16) : List Byte := (List.range n.val).map fun k => s.mem.read (s.i.toNat + k)

/-- A draw inverts the cell: it is under a set bit of the sprite at (Vx mod 64, Vy mod 32) (R124, R125). -/
def State.drawCovers (s : State) (x y : Reg) (n : Fin 16) (c : Nat) : Prop :=
  covered ((s.reg x).toNat % 64) ((s.reg y).toNat % 32) (s.spriteRows n) c

theorem State.length_spriteRows (s : State) (n : Fin 16) : (s.spriteRows n).length = n.val := by
  simp [State.spriteRows]

/-- Settles O54: the bytes from I on are the sprite, drawn by the law of `drawSprite_spec`. -/
theorem drawInvertsExactlyTheSpriteCells : Obligations.DrawInvertsExactlyTheSpriteCells := by
  rintro s x y n rows hin rfl
  have hlen : (s.spriteRows n).length ≤ 15 := by rw [s.length_spriteRows]; omega
  obtain ⟨hdisp, hhit⟩ := drawSprite_spec s ((s.reg x).toNat % 64) ((s.reg y).toNat % 32) (s.spriteRows n) hlen
  have hreg := s.reg_drawSprite ((s.reg x).toNat % 64) ((s.reg y).toNat % 32) (s.spriteRows n)
  have hflag := congrArg BitVec.toNat ((hreg VF).trans (if_pos rfl))
  refine ⟨_, _, exec_drw_ok s x y n (by omega), hdisp, ?bit, ?hit, fun z hz => (hreg z).trans (if_neg hz.symm)⟩
  case bit => exact hflag ▸ flagByte_toNat_zero_or_one _
  case hit => exact (iff_of_eq (congrArg (· = 1) hflag)).trans ((flagByte_toNat_eq_one_iff _).trans hhit)

/-- What a draw leaves, field by field. -/
theorem drw_spec {s t : State} {x y : Reg} {n : Fin 16} (hin : n.val = 0 ∨ s.i.toNat + n.val - 1 ≤ 0xFFF)
    (hexec : exec (.drw x y n) s = .next t) : t.fault = s.fault ∧ t.i = s.i ∧ t.mem = s.mem ∧
      (∀ c < 2048, t.disp.getLsbD c ≠ s.disp.getLsbD c ↔ s.drawCovers x y n c) ∧
      ((t.reg VF).toNat = 0 ∨ (t.reg VF).toNat = 1) ∧
      ((t.reg VF).toNat = 1 ↔ ∃ c < 2048, s.disp.getLsbD c = true ∧ s.drawCovers x y n c) ∧
      ∀ z : Reg, z ≠ VF → t.reg z = s.reg z := by
  obtain ⟨d, v, hstep, hdraw⟩ := drawInvertsExactlyTheSpriteCells s x y n _ hin rfl
  cases hexec.symm.trans hstep
  exact ⟨rfl, rfl, rfl, hdraw⟩

/-- A byte has a set bit, counted from the left, exactly where it is not 0. -/
theorem exists_bit_iff (b : Byte) : (∃ c < 8, b.getLsbD (7 - c) = true) ↔ b ≠ 0 := by
  constructor
  · rintro ⟨c, -, hbit⟩ rfl
    simp at hbit
  · intro hne
    by_contra hnone
    refine hne (BitVec.eq_of_getLsbD_eq fun k hk => ?_)
    have hclear : ¬ b.getLsbD (7 - (7 - k)) = true := fun hbit => hnone ⟨7 - k, by omega, hbit⟩
    rw [Nat.sub_sub_self (by omega)] at hclear
    simpa using hclear

/-- A draw covers some cell exactly where a byte of its sprite is not 0 (R125). -/
theorem exists_drawCovers_iff (s : State) (x y : Reg) (n : Fin 16) :
    (∃ c < 2048, s.drawCovers x y n c) ↔ ∃ k < n.val, s.mem.read (s.i.toNat + k) ≠ 0 := by
  have hrows : (∃ k < n.val, s.mem.read (s.i.toNat + k) ≠ 0) ↔ ∃ b ∈ s.spriteRows n, ∃ c < 8, b.getLsbD (7 - c) = true := by
    simp [exists_bit_iff, State.spriteRows]
  rw [hrows]
  constructor
  · rintro ⟨c, -, r, k, hr, hk, hbit, -⟩
    exact ⟨(s.spriteRows n)[r], List.getElem_mem hr, k, hk, hbit⟩
  · rintro ⟨b, hb, k, hk, hbit⟩
    obtain ⟨r, hr, rfl⟩ := List.getElem_of_mem hb
    exact ⟨_, Nat.mod_lt _ (by decide), r, k, hr, hk, hbit, rfl⟩

/-- Settles O55: both draws cover the same cells, so the second takes back the first, and from an empty buffer it hits exactly the
cells the sprite covers. -/
theorem drawingTwiceRestoresTheDisplay : Obligations.DrawingTwiceRestoresTheDisplay := by
  intro s t x y n hx hy hin hexec
  obtain ⟨u, hexec'⟩ := exec_next (.drw x y n) t
  obtain ⟨hfault, hindex, hmem, hdisp, hbit, hhit, hframe⟩ := drw_spec hin hexec
  obtain ⟨hfault', -, -, hdisp', -, hhit', -⟩ := drw_spec (hindex ▸ hin) hexec'
  have hcovers : t.drawCovers x y n = s.drawCovers x y n := by
    funext c
    rw [State.drawCovers, State.drawCovers, State.spriteRows, State.spriteRows, hframe x hx, hframe y hy, hindex, hmem]
  rw [hcovers] at hdisp' hhit'
  refine ⟨u, hexec', hfault'.trans hfault, BitVec.eq_of_getLsbD_eq fun c hc => ?back, fun hempty => ⟨?first, ?second⟩⟩
  case back =>
    have htwice := (hdisp' c hc).trans (hdisp c hc).symm
    revert htwice
    cases u.disp.getLsbD c <;> cases t.disp.getLsbD c <;> cases s.disp.getLsbD c <;> decide
  case first =>
    refine hbit.resolve_right fun hone => ?_
    obtain ⟨c, hc, hset, -⟩ := hhit.mp hone
    simp [hempty c hc] at hset
  case second =>
    have hset (c : Nat) (hc : c < 2048) : t.disp.getLsbD c = true ↔ s.drawCovers x y n c := by
      rw [← hdisp c hc, hempty c hc, ne_eq, Bool.not_eq_false]
    rw [hhit', ← exists_drawCovers_iff s x y n]
    exact exists_congr fun c => and_congr_right fun hc => and_iff_right_of_imp (hset c hc).mpr

end Sys2Proof.Machine
end
